-- ==== Sys2Proof/Word.lean ====
section
/-! DEFINITION. The machine's word and byte (00_scope.md R6), its register names (10_state.md R20) and
the events that reach it from outside the instruction stream (R29, R286). -/

namespace Sys2Proof

/-- A 16-bit value: a general register, a byte address, an instruction word (R2, R6, R10). -/
abbrev Word := BitVec 16

/-- One byte of memory (R50). -/
abbrev Byte := BitVec 8

/-- The eight registers by the identifiers of R20, r0 to r7 in this order. -/
inductive Reg where
  | zr | rp | sp | x1 | x2 | x3 | t1 | t2
deriving DecidableEq, Repr, Inhabited

/-- What can happen next between two instructions: the next instruction is taken up, the load of a
register arrives (R29), an interrupt request arrives, or a pending interrupt is taken (R286, D42). -/
inductive Event where
  | run
  | resolve (r : Reg)
  | arrive
  | take
deriving DecidableEq, Repr, Inhabited

end Sys2Proof
end

