-- ==== Sys2Proof/Syntax.lean ====
section
/-! DEFINITION. The instructions: one constructor for each row of spec/opcode_table.json, with the fields of
its format (30_encoding.md R81 to R88). The rows are the 45 instructions (R91), the 9 control encodings
(R92), the 5 reserved rows (R101, R103, R228) and the 22 pure pseudo-instructions (R241 to R262), which are
second spellings of a base instruction's words (R240) and are never what the decoder answers (R93). -/

namespace Sys2Proof

/-- The six condition codes that have a name (R35). Codes 011 and 111 are reserved and have none (R103). -/
inductive Cond where
  | c | s | z | nc | ns | nz
deriving DecidableEq, Repr

/-- Why the decoder rejects a word, or a byte sequence, that is no row of the table. -/
inductive Reject where
  /-- jmpdl of zr with two or more bits of F set (R102). Raised by the decoder; safe, no step is invented. -/
  | reservedControlFlag
  /-- jmpd or jmpdl of a register other than zr with F not 0 (R104). Raised by the decoder; safe. -/
  | unspecifiedJumpFlags
  /-- Fewer than the two bytes of an instruction (R80). Raised by the decoder on a short byte list; the
  fetch of the machine always gives it two bytes. Safe. -/
  | truncated
deriving DecidableEq, Repr

inductive Instr where
  -- format R3 (R81): destination, first source, second source
  | add (rd rs1 rs2 : Reg)  -- R111
  | addc (rd rs1 rs2 : Reg)  -- R112
  | sub (rd rs1 rs2 : Reg)  -- R113
  | subb (rd rs1 rs2 : Reg)  -- R114
  | slt (rd rs1 rs2 : Reg)  -- R117
  | sltu (rd rs1 rs2 : Reg)  -- R118
  | szr (rd rs1 rs2 : Reg)  -- R131: rs1 the value, rs2 the tested register
  | ior (rd rs1 rs2 : Reg)  -- R132
  | and (rd rs1 rs2 : Reg)  -- R133
  | xor (rd rs1 rs2 : Reg)  -- R134
  -- format I8 (R82): W register (read and written), S register (read) or D register (written)
  | addi (rw : Reg) (imm : BitVec 8)  -- R115
  | cmpi (rs : Reg) (imm : BitVec 8)  -- R116
  | iori (rw : Reg) (imm : BitVec 8)  -- R135
  | ioriu (rw : Reg) (imm : BitVec 8)  -- R136
  | andi (rw : Reg) (imm : BitVec 8)  -- R137
  | andiu (rw : Reg) (imm : BitVec 8)  -- R138
  | biti (rs : Reg) (imm : BitVec 8)  -- R139
  | xori (rw : Reg) (imm : BitVec 8)  -- R140
  | xoriu (rw : Reg) (imm : BitVec 8)  -- R141
  | lli (rd : Reg) (imm : BitVec 8)  -- R170
  | lui (rd : Reg) (imm : BitVec 8)  -- R171
  -- format SH (R84) and the register-amount shifts in format R3
  | bsl (rd rs : Reg) (amt : BitVec 4)  -- R153
  | bsr (rd rs : Reg) (amt : BitVec 4)  -- R154
  | bsrs (rd rs : Reg) (amt : BitVec 4)  -- R155
  | brr (rd rs : Reg) (amt : BitVec 4)  -- R156
  | bsld (rd rs1 rs2 : Reg)  -- R157
  | bsrd (rd rs1 rs2 : Reg)  -- R158
  | bsrsd (rd rs1 rs2 : Reg)  -- R159
  | brrd (rd rs1 rs2 : Reg)  -- R160
  -- formats J11 (R85), JR (R86, with F = 0: R104) and B (R87)
  | jmp (imm : BitVec 11)  -- R176
  | jmpl (imm : BitVec 11)  -- R177
  | jmpr (imm : BitVec 11)  -- R179
  | jmprl (imm : BitVec 11)  -- R180
  | jmpd (rs : Reg)  -- R181
  | jmpdl (rs : Reg)  -- R183
  | brh (cond : Cond) (imm : BitVec 8)  -- R184
  | prfi (imm : BitVec 11)  -- R186
  -- format M (R88): data register, base register, offset field
  | mld (rd base : Reg) (imm : BitVec 5)  -- R196
  | mldw (rd base : Reg) (imm : BitVec 5)  -- R197
  | mst (rs base : Reg) (imm : BitVec 5)  -- R198
  | mstw (rs base : Reg) (imm : BitVec 5)  -- R199
  | xch (rw base : Reg) (imm : BitVec 5)  -- R200
  | xchw (rw base : Reg) (imm : BitVec 5)  -- R201
  -- format CSR (R83)
  | csrr (rd : Reg) (csr : BitVec 6)  -- R216
  | csrw (rs : Reg) (csr : BitVec 6)  -- R217
  -- control encodings (R92)
  | bkpt  -- R218
  | nop  -- R219
  | sysc (x : BitVec 8)  -- R220
  | fence  -- R222
  | ftlb  -- R223
  | rfi  -- R224
  | wfi  -- R225
  | scf  -- R226
  | rscf  -- R227
  -- reserved rows (R101, R103, R228): no effect is given
  | reservedB840  -- R228
  | reservedB880  -- R228
  | reserved01111 (rd : Reg) (fn : BitVec 2) (rs1 rs2 : Reg)  -- R101
  | reservedBrhCond011 (imm : BitVec 8)  -- R103
  | reservedBrhCond111 (imm : BitVec 8)  -- R103
  -- pure pseudo-instructions (R240): second spellings of the base instruction named
  | mov (rd rs : Reg)  -- R241: add rd, rs, zr
  | test (rs : Reg)  -- R242: add zr, rs, zr
  | neg (rd rs : Reg)  -- R243: sub rd, zr, rs
  | cmp (rs1 rs2 : Reg)  -- R244: sub zr, rs1, rs2
  | inc (rw : Reg)  -- R245: addi rw, 1
  | dec (rw : Reg)  -- R246: addi rw, -1
  | alloc (imm : BitVec 8)  -- R247: addi sp, imm
  | ip (rd : Reg) (csr : BitVec 6)  -- R248: csrr rd, csr
  | clri (csr : BitVec 6)  -- R249: csrw zr, csr
  | sneg (rd rs : Reg)  -- R250: slt rd, rs, zr
  | spos (rd rs : Reg)  -- R251: slt rd, zr, rs
  | snez (rd rs : Reg)  -- R252: sltu rd, zr, rs
  | cut4 (rw : Reg)  -- R253: andiu rw, 0x0F
  | cut8 (rw : Reg)  -- R254: andiu rw, 0xFF
  | clrl (rw : Reg)  -- R255: andiu rw, 0
  | not (rw : Reg)  -- R256: xori rw, -1
  | not8 (rw : Reg)  -- R257: xoriu rw, 0xFF
  | clr (rd : Reg)  -- R258: lui rd, 0
  | ret  -- R259: jmpd rp
  | prfd (base : Reg) (imm : BitVec 5)  -- R260: mldw zr, base, imm
  | mclr (base : Reg) (imm : BitVec 5)  -- R261: mst zr, base, imm
  | mclrw (base : Reg) (imm : BitVec 5)  -- R262: mstw zr, base, imm
deriving DecidableEq, Repr

end Sys2Proof
end

