-- ==== Sys2Proof/WellFormed.lean ====
section
/-! DEFINITION. Which instruction terms have a word of their own. Field widths are in the types of
Syntax.lean; what is left are the spellings whose word the control unit reads as something else (R92, R215,
R242). -/

namespace Sys2Proof

/-- An instruction term is well formed when its word means that instruction: `add zr, zr, zr` is the word
of bkpt (R111), `addi zr, 0` that of nop (R115), `jmpd zr` that of sysc (R181), and `mov zr, zr` and
`test zr` are bkpt again (R241, R242). Every other term is. -/
def Instr.wf : Instr → Bool
  | .add rd rs1 rs2 => !(rd == .zr && rs1 == .zr && rs2 == .zr)
  | .addi rw imm => !(rw == .zr && imm == 0)
  | .jmpd rs => !(rs == .zr)
  | .mov rd rs => !(rd == .zr && rs == .zr)
  | .test rs => !(rs == .zr)
  | .addc .. | .sub .. | .subb .. | .slt .. | .sltu .. | .szr .. | .ior .. | .and .. | .xor .. => true
  | .cmpi .. | .iori .. | .ioriu .. | .andi .. | .andiu .. | .biti .. | .xori .. | .xoriu .. => true
  | .lli .. | .lui .. | .bsl .. | .bsr .. | .bsrs .. | .brr .. | .bsld .. | .bsrd .. | .bsrsd .. => true
  | .brrd .. | .jmp .. | .jmpl .. | .jmpr .. | .jmprl .. | .jmpdl .. | .brh .. | .prfi .. => true
  | .mld .. | .mldw .. | .mst .. | .mstw .. | .xch .. | .xchw .. | .csrr .. | .csrw .. => true
  | .bkpt | .nop | .sysc .. | .fence | .ftlb | .rfi | .wfi | .scf | .rscf => true
  | .reservedB840 | .reservedB880 | .reserved01111 .. => true
  | .reservedBrhCond011 .. | .reservedBrhCond111 .. => true
  | .neg .. | .cmp .. | .inc .. | .dec .. | .alloc .. | .ip .. | .clri .. | .sneg .. | .spos .. => true
  | .snez .. | .cut4 .. | .cut8 .. | .clrl .. | .not .. | .not8 .. | .clr .. | .ret | .prfd .. => true
  | .mclr .. | .mclrw .. => true

/-- The base instruction a pure pseudo-instruction spells (R240 to R262); every other instruction is its
own base. -/
def Instr.base : Instr → Instr
  | .mov rd rs => .add rd rs .zr
  | .test rs => .add .zr rs .zr
  | .neg rd rs => .sub rd .zr rs
  | .cmp rs1 rs2 => .sub .zr rs1 rs2
  | .inc rw => .addi rw 0x01
  | .dec rw => .addi rw 0xFF
  | .alloc imm => .addi .sp imm
  | .ip rd csr => .csrr rd csr
  | .clri csr => .csrw .zr csr
  | .sneg rd rs => .slt rd rs .zr
  | .spos rd rs => .slt rd .zr rs
  | .snez rd rs => .sltu rd .zr rs
  | .cut4 rw => .andiu rw 0x0F
  | .cut8 rw => .andiu rw 0xFF
  | .clrl rw => .andiu rw 0x00
  | .not rw => .xori rw 0xFF
  | .not8 rw => .xoriu rw 0xFF
  | .clr rd => .lui rd 0x00
  | .ret => .jmpd .rp
  | .prfd base imm => .mldw .zr base imm
  | .mclr base imm => .mst .zr base imm
  | .mclrw base imm => .mstw .zr base imm
  | i => i

end Sys2Proof
end

