-- ==== Sys2Proof/Decode.lean ====
section
/-! DEFINITION. The decoder and the encoder (30_encoding.md R80 to R106). The leftmost digit of a pattern is bit
15 (R8, D1). An instruction word lies in memory low byte first (R54, D2). -/

namespace Sys2Proof

/-- The 3-bit register field of R20. -/
def Reg.toBits : Reg → BitVec 3
  | .zr => 0 | .rp => 1 | .sp => 2 | .x1 => 3 | .x2 => 4 | .x3 => 5 | .t1 => 6 | .t2 => 7

/-- The register a 3-bit field names (R20). -/
def Reg.ofBits (b : BitVec 3) : Reg :=
  match b.toNat with
  | 0 => .zr | 1 => .rp | 2 => .sp | 3 => .x1 | 4 => .x2 | 5 => .x3 | 6 => .t1 | _ => .t2

/-- The condition field of R35. -/
def Cond.toBits : Cond → BitVec 3
  | .c => 0 | .s => 1 | .z => 2 | .nc => 4 | .ns => 5 | .nz => 6

/-! The fields of R81 to R88. -/

/-- Bits 15:11, the opcode of every format (R80). -/
def opcode (w : Word) : BitVec 5 := w.extractLsb' 11 5
/-- Bits 10:8 as a register. -/
def regHi (w : Word) : Reg := Reg.ofBits (w.extractLsb' 8 3)
/-- Bits 7:6, fn of formats R3 and CSR. -/
def fnField (w : Word) : BitVec 2 := w.extractLsb' 6 2
/-- Bits 5:3 as a register, rs1 of format R3. -/
def regMid (w : Word) : Reg := Reg.ofBits (w.extractLsb' 3 3)
/-- Bits 2:0 as a register: rs2 of format R3, rs of SH, base of M. -/
def regLo (w : Word) : Reg := Reg.ofBits (w.extractLsb' 0 3)
/-- Bits 7:0: imm8 of formats I8 and B, F of format JR. -/
def imm8Field (w : Word) : BitVec 8 := w.extractLsb' 0 8
/-- Bits 5:0, the CSR number. -/
def csrField (w : Word) : BitVec 6 := w.extractLsb' 0 6
/-- Bit 7, sel of format SH. -/
def selField (w : Word) : BitVec 1 := w.extractLsb' 7 1
/-- Bits 6:3, the shift amount. -/
def amtField (w : Word) : BitVec 4 := w.extractLsb' 3 4
/-- Bits 10:0, imm11 of format J11. -/
def imm11Field (w : Word) : BitVec 11 := w.extractLsb' 0 11
/-- Bits 7:3, imm5 of format M. -/
def imm5Field (w : Word) : BitVec 5 := w.extractLsb' 3 5
/-- Bits 10:8, the condition code of format B. -/
def condField (w : Word) : BitVec 3 := w.extractLsb' 8 3

/-- The four instructions a 2-bit fn selects in format R3 (R91). -/
def byFn (w : Word) (i0 i1 i2 i3 : Reg → Reg → Reg → Instr) : Instr :=
  match (fnField w).toNat with
  | 0 => i0 (regHi w) (regMid w) (regLo w)
  | 1 => i1 (regHi w) (regMid w) (regLo w)
  | 2 => i2 (regHi w) (regMid w) (regLo w)
  | _ => i3 (regHi w) (regMid w) (regLo w)

/-- The two instructions sel selects in format SH (R84). -/
def bySel (w : Word) (i0 i1 : Reg → Reg → BitVec 4 → Instr) : Instr :=
  match (selField w).toNat with
  | 0 => i0 (regHi w) (regLo w) (amtField w)
  | _ => i1 (regHi w) (regLo w) (amtField w)

/-- Opcode 00011 holds the CSR format (fn 00, 01) and two R3 instructions (fn 10, 11) (R83). -/
def decodeCsr (w : Word) : Instr :=
  match (fnField w).toNat with
  | 0 => .csrr (regHi w) (csrField w)
  | 1 => .csrw (regHi w) (csrField w)
  | 2 => .slt (regHi w) (regMid w) (regLo w)
  | _ => .sltu (regHi w) (regMid w) (regLo w)

/-- brh, or one of the two reserved conditions (R35, R103). -/
def decodeBranch (w : Word) : Instr :=
  match (condField w).toNat with
  | 0 => .brh .c (imm8Field w)
  | 1 => .brh .s (imm8Field w)
  | 2 => .brh .z (imm8Field w)
  | 3 => .reservedBrhCond011 (imm8Field w)
  | 4 => .brh .nc (imm8Field w)
  | 5 => .brh .ns (imm8Field w)
  | 6 => .brh .nz (imm8Field w)
  | _ => .reservedBrhCond111 (imm8Field w)

/-- Opcode 10110: sysc when the register is zr, else jmpd with F = 0 (R92, R104). -/
def decodeJmpd (w : Word) : Except Reject Instr :=
  if regHi w = .zr then .ok (.sysc (imm8Field w))
  else if imm8Field w = 0 then .ok (.jmpd (regHi w))
  else .error .unspecifiedJumpFlags

/-- Opcode 10111: with F = 0 the linked jump, of zr too (D36); with the register zr the control encodings
of R92 and the reserved flags of R102; with another register and F not 0 a rejection (R104). -/
def decodeJmpdl (w : Word) : Except Reject Instr :=
  if imm8Field w = 0 then .ok (.jmpdl (regHi w))
  else if regHi w ≠ .zr then .error .unspecifiedJumpFlags
  else match (imm8Field w).toNat with
    | 1 => .ok .fence
    | 2 => .ok .ftlb
    | 4 => .ok .rfi
    | 8 => .ok .wfi
    | 16 => .ok .scf
    | 32 => .ok .rscf
    | 64 => .ok .reservedB840
    | 128 => .ok .reservedB880
    | _ => .error .reservedControlFlag

/-- The meaning of an instruction word: the control encodings of R92 before the base instruction whose
pattern they lie in (R93), then the reserved rows, then R91. -/
def decode (w : Word) : Except Reject Instr :=
  match (opcode w).toNat with
  | 0 => .ok (if w = 0x0000 then .bkpt else byFn w .add .addc .sub .subb)
  | 1 => .ok (if w = 0x0800 then .nop else .addi (regHi w) (imm8Field w))
  | 2 => .ok (.cmpi (regHi w) (imm8Field w))
  | 3 => .ok (decodeCsr w)
  | 4 => .ok (byFn w .szr .ior .and .xor)
  | 5 => .ok (.iori (regHi w) (imm8Field w))
  | 6 => .ok (.ioriu (regHi w) (imm8Field w))
  | 7 => .ok (.andi (regHi w) (imm8Field w))
  | 8 => .ok (.andiu (regHi w) (imm8Field w))
  | 9 => .ok (.biti (regHi w) (imm8Field w))
  | 10 => .ok (.xori (regHi w) (imm8Field w))
  | 11 => .ok (.xoriu (regHi w) (imm8Field w))
  | 12 => .ok (bySel w .bsl .bsr)
  | 13 => .ok (bySel w .bsrs .brr)
  | 14 => .ok (byFn w .bsld .bsrd .bsrsd .brrd)
  | 15 => .ok (.reserved01111 (regHi w) (fnField w) (regMid w) (regLo w))
  | 16 => .ok (.lli (regHi w) (imm8Field w))
  | 17 => .ok (.lui (regHi w) (imm8Field w))
  | 18 => .ok (.jmp (imm11Field w))
  | 19 => .ok (.jmpl (imm11Field w))
  | 20 => .ok (.jmpr (imm11Field w))
  | 21 => .ok (.jmprl (imm11Field w))
  | 22 => decodeJmpd w
  | 23 => decodeJmpdl w
  | 24 => .ok (decodeBranch w)
  | 25 => .ok (.prfi (imm11Field w))
  | 26 => .ok (.mld (regHi w) (regLo w) (imm5Field w))
  | 27 => .ok (.mldw (regHi w) (regLo w) (imm5Field w))
  | 28 => .ok (.mst (regHi w) (regLo w) (imm5Field w))
  | 29 => .ok (.mstw (regHi w) (regLo w) (imm5Field w))
  | 30 => .ok (.xch (regHi w) (regLo w) (imm5Field w))
  | _ => .ok (.xchw (regHi w) (regLo w) (imm5Field w))

/-- Decoding of a byte sequence as it lies in memory, low byte of the word first (R54): the instruction and
the bytes after it. -/
def decodeBytes : List Byte → Except Reject (Instr × List Byte)
  | lo :: hi :: rest =>
    match decode (hi ++ lo) with
    | .ok i => .ok (i, rest)
    | .error e => .error e
  | _ => .error .truncated

/-! The encoder, from the patterns of R81 to R88: each format is the concatenation of its fields. -/

/-- Format R3 (R81). -/
def wordR3 (op : BitVec 5) (rd : Reg) (fn : BitVec 2) (rs1 rs2 : Reg) : Word :=
  op ++ rd.toBits ++ fn ++ rs1.toBits ++ rs2.toBits
/-- Formats I8 (R82) and JR (R86). -/
def wordI8 (op : BitVec 5) (r : Reg) (imm : BitVec 8) : Word := op ++ r.toBits ++ imm
/-- Format CSR (R83). -/
def wordCsr (op : BitVec 5) (r : Reg) (fn : BitVec 2) (csr : BitVec 6) : Word := op ++ r.toBits ++ fn ++ csr
/-- Format SH (R84). -/
def wordSh (op : BitVec 5) (rd : Reg) (sel : BitVec 1) (amt : BitVec 4) (rs : Reg) : Word :=
  op ++ rd.toBits ++ sel ++ amt ++ rs.toBits
/-- Format J11 (R85). -/
def wordJ11 (op : BitVec 5) (imm : BitVec 11) : Word := op ++ imm
/-- Format B (R87). -/
def wordB (op : BitVec 5) (cond : BitVec 3) (imm : BitVec 8) : Word := op ++ cond ++ imm
/-- Format M (R88). -/
def wordM (op : BitVec 5) (r : Reg) (imm : BitVec 5) (base : Reg) : Word := op ++ r.toBits ++ imm ++ base.toBits

/-- The word of an instruction (R81 to R92, R101 to R103, R241 to R262). -/
def encode : Instr → Word
  | .add rd rs1 rs2 => wordR3 0b00000#5 rd 0b00#2 rs1 rs2
  | .addc rd rs1 rs2 => wordR3 0b00000#5 rd 0b01#2 rs1 rs2
  | .sub rd rs1 rs2 => wordR3 0b00000#5 rd 0b10#2 rs1 rs2
  | .subb rd rs1 rs2 => wordR3 0b00000#5 rd 0b11#2 rs1 rs2
  | .addi rw imm => wordI8 0b00001#5 rw imm
  | .cmpi rs imm => wordI8 0b00010#5 rs imm
  | .csrr rd csr => wordCsr 0b00011#5 rd 0b00#2 csr
  | .csrw rs csr => wordCsr 0b00011#5 rs 0b01#2 csr
  | .slt rd rs1 rs2 => wordR3 0b00011#5 rd 0b10#2 rs1 rs2
  | .sltu rd rs1 rs2 => wordR3 0b00011#5 rd 0b11#2 rs1 rs2
  | .szr rd rs1 rs2 => wordR3 0b00100#5 rd 0b00#2 rs1 rs2
  | .ior rd rs1 rs2 => wordR3 0b00100#5 rd 0b01#2 rs1 rs2
  | .and rd rs1 rs2 => wordR3 0b00100#5 rd 0b10#2 rs1 rs2
  | .xor rd rs1 rs2 => wordR3 0b00100#5 rd 0b11#2 rs1 rs2
  | .iori rw imm => wordI8 0b00101#5 rw imm
  | .ioriu rw imm => wordI8 0b00110#5 rw imm
  | .andi rw imm => wordI8 0b00111#5 rw imm
  | .andiu rw imm => wordI8 0b01000#5 rw imm
  | .biti rs imm => wordI8 0b01001#5 rs imm
  | .xori rw imm => wordI8 0b01010#5 rw imm
  | .xoriu rw imm => wordI8 0b01011#5 rw imm
  | .bsl rd rs amt => wordSh 0b01100#5 rd 0#1 amt rs
  | .bsr rd rs amt => wordSh 0b01100#5 rd 1#1 amt rs
  | .bsrs rd rs amt => wordSh 0b01101#5 rd 0#1 amt rs
  | .brr rd rs amt => wordSh 0b01101#5 rd 1#1 amt rs
  | .bsld rd rs1 rs2 => wordR3 0b01110#5 rd 0b00#2 rs1 rs2
  | .bsrd rd rs1 rs2 => wordR3 0b01110#5 rd 0b01#2 rs1 rs2
  | .bsrsd rd rs1 rs2 => wordR3 0b01110#5 rd 0b10#2 rs1 rs2
  | .brrd rd rs1 rs2 => wordR3 0b01110#5 rd 0b11#2 rs1 rs2
  | .reserved01111 rd fn rs1 rs2 => wordR3 0b01111#5 rd fn rs1 rs2
  | .lli rd imm => wordI8 0b10000#5 rd imm
  | .lui rd imm => wordI8 0b10001#5 rd imm
  | .jmp imm => wordJ11 0b10010#5 imm
  | .jmpl imm => wordJ11 0b10011#5 imm
  | .jmpr imm => wordJ11 0b10100#5 imm
  | .jmprl imm => wordJ11 0b10101#5 imm
  | .jmpd rs => wordI8 0b10110#5 rs 0
  | .jmpdl rs => wordI8 0b10111#5 rs 0
  | .brh cond imm => wordB 0b11000#5 cond.toBits imm
  | .reservedBrhCond011 imm => wordB 0b11000#5 0b011#3 imm
  | .reservedBrhCond111 imm => wordB 0b11000#5 0b111#3 imm
  | .prfi imm => wordJ11 0b11001#5 imm
  | .mld rd base imm => wordM 0b11010#5 rd imm base
  | .mldw rd base imm => wordM 0b11011#5 rd imm base
  | .mst rs base imm => wordM 0b11100#5 rs imm base
  | .mstw rs base imm => wordM 0b11101#5 rs imm base
  | .xch rw base imm => wordM 0b11110#5 rw imm base
  | .xchw rw base imm => wordM 0b11111#5 rw imm base
  | .bkpt => 0x0000
  | .nop => 0x0800
  | .sysc x => wordI8 0b10110#5 .zr x
  | .fence => wordI8 0b10111#5 .zr 0x01
  | .ftlb => wordI8 0b10111#5 .zr 0x02
  | .rfi => wordI8 0b10111#5 .zr 0x04
  | .wfi => wordI8 0b10111#5 .zr 0x08
  | .scf => wordI8 0b10111#5 .zr 0x10
  | .rscf => wordI8 0b10111#5 .zr 0x20
  | .reservedB840 => wordI8 0b10111#5 .zr 0x40
  | .reservedB880 => wordI8 0b10111#5 .zr 0x80
  | .mov rd rs => wordR3 0b00000#5 rd 0b00#2 rs .zr
  | .test rs => wordR3 0b00000#5 .zr 0b00#2 rs .zr
  | .neg rd rs => wordR3 0b00000#5 rd 0b10#2 .zr rs
  | .cmp rs1 rs2 => wordR3 0b00000#5 .zr 0b10#2 rs1 rs2
  | .inc rw => wordI8 0b00001#5 rw 0x01
  | .dec rw => wordI8 0b00001#5 rw 0xFF
  | .alloc imm => wordI8 0b00001#5 .sp imm
  | .ip rd csr => wordCsr 0b00011#5 rd 0b00#2 csr
  | .clri csr => wordCsr 0b00011#5 .zr 0b01#2 csr
  | .sneg rd rs => wordR3 0b00011#5 rd 0b10#2 rs .zr
  | .spos rd rs => wordR3 0b00011#5 rd 0b10#2 .zr rs
  | .snez rd rs => wordR3 0b00011#5 rd 0b11#2 .zr rs
  | .cut4 rw => wordI8 0b01000#5 rw 0x0F
  | .cut8 rw => wordI8 0b01000#5 rw 0xFF
  | .clrl rw => wordI8 0b01000#5 rw 0x00
  | .not rw => wordI8 0b01010#5 rw 0xFF
  | .not8 rw => wordI8 0b01011#5 rw 0xFF
  | .clr rd => wordI8 0b10001#5 rd 0x00
  | .ret => wordI8 0b10110#5 .rp 0x00
  | .prfd base imm => wordM 0b11011#5 .zr imm base
  | .mclr base imm => wordM 0b11100#5 .zr imm base
  | .mclrw base imm => wordM 0b11101#5 .zr imm base

/-- The two bytes of a word as they lie in memory (R54). -/
def wordBytes (w : Word) : List Byte := [w.extractLsb' 0 8, w.extractLsb' 8 8]

/-- What the decoder reads from an instruction of `nbits` bits whose bits are `w`, numbered from the least
significant bit of the first word. A row of this table has one word (R80). -/
def decodeTableWord (nbits w : Nat) : Option Instr :=
  if 16 < nbits then none
  else match decodeBytes (wordBytes (BitVec.ofNat 16 (w % 2 ^ nbits))) with
    | .ok (i, _) => some i
    | .error _ => none

end Sys2Proof
end

