-- ==== Sys2Proof/Config.lean ====
section
/-! DEFINITION. What the spec leaves free (`any`, R11; the free step of R29; unwritten memory, R38; the values of CSRs it
does not describe, R216; a load with no fence, R62; a pending register a trap entry reads, R291). Each is an opaque constant: it has no value a proof could use, so a
claim about this model holds for every value. notes/assumptions/5.md, 6.md, 7.md, 29.md, 45.md and 47.md. -/

namespace Sys2Proof

/-- The free value number `n`: what `any` stands for in the rules (R11). The state counts the values
drawn, so two draws of a run are two different numbers. -/
opaque Config.draw : Nat → Word

/-- What happens at step number `n` where the state's own list of coming events has ended (R29, R286). -/
opaque Config.event : Nat → Event

/-- The content of the byte at address `a` before anything was placed or stored there (R38, R62). -/
opaque Config.initialByte : Nat → Byte

/-- The same for the separate instruction memory of a machine without MEM_UNIFIED (R7, D3). -/
opaque Config.initialCodeByte : Nat → Byte

/-- A byte loaded from an address with an unfenced store to it, where MEM_ORDER is `fenced` (R62): free at every load,
numbered by the draws counted so far and the address. -/
opaque Config.unorderedByte : Nat → Word → Byte

/-- What a trap entry reads of a register that is pending (R27 speaks of instructions only, R289, R291): free at every
entry, numbered by the draws counted so far and the register. -/
opaque Config.pendingValue : Nat → Reg → Word

/-- The word read from a CSR whose read value the spec does not state (R216): free at every read, and
it may depend on the CSR's number and on the word last written to it. -/
opaque Config.csrValue : Nat → BitVec 6 → Word → Word

end Sys2Proof
end

