-- ==== Sys2Proof/Machine/Params.lean ====
section
/-! DEFINITION. The parameters of 00_scope.md R7, each a named field of one record that the state holds, and the spec's
own choice of them. The last five rows of R7's table are the fields of `Platform`. What a value other than the
spec's choice means is told here and logged in notes/assumptions/47.md. -/

namespace Sys2Proof.Machine

/-- INSN_BYTE_ORDER (D2): which byte of an instruction word lies at the lower address. -/
inductive ByteOrder where
  | little
  | big
deriving DecidableEq, Repr

/-- FU_POLICY (D10): what a class FU instruction does to fl. Each flag is free, fl is kept, or z and s come from
the result with c free. -/
inductive FuPolicy where
  | any
  | kept
  | fromResult
deriving DecidableEq, Repr

/-- LOGIC_C_POLICY (D11): what a logical instruction does to flag c ("cleared, kept"). -/
inductive LogicCPolicy where
  | any
  | cleared
  | kept
deriving DecidableEq, Repr

/-- FL_LAYOUT (D12): the bit of fl that holds each named flag. Where two share a bit, a read of the bit gives the
first of c, s, z. -/
structure FlLayout where
  c : Fin 4
  s : Fin 4
  z : Fin 4
deriving DecidableEq, Repr

/-- SZR_ROLES (D15): which source of szr is the value; the other one is tested. -/
inductive SzrRoles where
  | firstIsValue
  | secondIsValue
deriving DecidableEq, Repr

/-- STORE_BYTE_SELECT (D17): which byte of the register mst and xch store. -/
inductive ByteSelect where
  | low
  | high
deriving DecidableEq, Repr

/-- MISALIGNED_WORD (D18): a word access at an odd address has no step, or is split into its two bytes. -/
inductive MisalignedWord where
  | refuse
  | split
deriving DecidableEq, Repr

/-- MEM_ORDER (D20, R62). Under `fenced` a load that overlaps an earlier store with no fence between returns `any`. -/
inductive MemOrder where
  | program
  | fenced
deriving DecidableEq, Repr

/-- FETCH_COHERENCE (D21, R64): a store into the program image has no step, or is made and later fetches see it. -/
inductive FetchCoherence where
  | refuse
  | seen
deriving DecidableEq, Repr

/-- The parameters of R7 that are not fields of the platform record of R301. -/
structure Params where
  /-- PATTERN_MSB_FIRST (D1): the leftmost digit of a pattern is bit 15; otherwise it is bit 0 -/
  patternMsbFirst : Bool
  /-- INSN_BYTE_ORDER -/
  insnByteOrder : ByteOrder
  /-- MEM_UNIFIED (D3): instructions and data share one address space; otherwise instructions have their own -/
  memUnified : Bool
  /-- IP_REL_BASE (D4): what `ip` means in `ip += ...`, counted from the instruction's address -/
  ipRelBase : Word
  /-- LINK_OFFSET (D5): what `rp = ip` writes, counted from the instruction's address -/
  linkOffset : Word
  /-- SUB_CARRY_NOT_BORROW (D8): after a subtraction flag c = 1 means no borrow; otherwise c is inverted -/
  subCarryNotBorrow : Bool
  /-- FLAG_S_IS_BIT15 (D9): flag s is bit 15 of the result; otherwise it is corrected for signed overflow -/
  flagSIsBit15 : Bool
  /-- FU_POLICY -/
  fuPolicy : FuPolicy
  /-- LOGIC_C_POLICY -/
  logicCPolicy : LogicCPolicy
  /-- FL_LAYOUT -/
  flLayout : FlLayout
  /-- SLT_EXACT (D14): slt is the exact signed comparison; otherwise bit 15 of the 16-bit difference -/
  sltExact : Bool
  /-- SZR_ROLES -/
  szrRoles : SzrRoles
  /-- SHIFT_REG_AMOUNT (D16): how many low bits of the amount register a register shift uses -/
  shiftRegAmount : Nat
  /-- STORE_BYTE_SELECT -/
  storeByteSelect : ByteSelect
  /-- MISALIGNED_WORD -/
  misalignedWord : MisalignedWord
  /-- ADDR_WRAP (D19): an effective address wraps modulo 2^16; otherwise one past 0xFFFF has no step -/
  addrWrap : Bool
  /-- MEM_ORDER -/
  memOrder : MemOrder
  /-- FETCH_COHERENCE -/
  fetchCoherence : FetchCoherence
deriving DecidableEq, Repr

/-- The column "spec's choice" of R7. -/
def Params.spec : Params where
  patternMsbFirst := true
  insnByteOrder := .little
  memUnified := true
  ipRelBase := 2
  linkOffset := 2
  subCarryNotBorrow := true
  flagSIsBit15 := true
  fuPolicy := .any
  logicCPolicy := .any
  flLayout := ⟨0, 1, 2⟩
  sltExact := true
  szrRoles := .firstIsValue
  shiftRegAmount := 4
  storeByteSelect := .low
  misalignedWord := .refuse
  addrWrap := true
  memOrder := .program
  fetchCoherence := .refuse

end Sys2Proof.Machine
end

