-- ==== Sys2Proof/Machine/Platform.lean ====
section
/-! DEFINITION. The platform record of 60_exceptions.md R301 as plain data: the CSR map, what a trap entry and a return
do beyond what the source fixes, the interrupt source, address translation and the reset address. R301 types TRAP_ENTRY
and TRAP_RETURN as functions of cause, info, A and state; a state that is plain data holds them as terms of the small
language below (notes/assumptions/31.md). -/

namespace Sys2Proof.Machine

/-- The control and status registers the spec names or implies (R36): the four with a rule of their own
and the three classes of `other(name)` in R301. -/
inductive Csr where
  | ip
  | fl
  | pen
  | ira
  | interruptInterface
  | vmConfig
  | readOnly
deriving DecidableEq, Repr

/-- Why a trap is taken, by the spec's names (R281), with the value recorded. -/
inductive Cause where
  | pendingWrite (r : Reg)
  | breakpoint
  | systemCall (x : BitVec 8)
  | interrupt
deriving DecidableEq, Repr

/-- The operations a platform may combine two values with. -/
inductive TrapOp where
  | plus
  | minus
  | and
  | or
  | xor
  | shiftLeft
  | shiftRight
  /-- 1 if the first is below the second, both unsigned, else 0 -/
  | less
deriving DecidableEq, Repr

/-- A value a platform computes at a trap from the info, A and the state (R283, R301). All reads see the state in
which the trap is entered or rfi executed. -/
inductive TrapExpr where
  /-- a fixed value -/
  | const (v : Word)
  /-- a general register; sp for "the stack at sp" (R289) -/
  | reg (r : Reg)
  /-- the word of a CSR, for "an address from a CSR" (R289) -/
  | csr (k : BitVec 6)
  /-- the interrupt return address -/
  | ira
  /-- fl as a CSR would read it -/
  | flags
  /-- 1 if an interrupt is pending, else 0 -/
  | pen
  /-- 1 if interrupts are masked, else 0 -/
  | masked
  /-- 1 if the register is pending, else 0: its async resolved bit (R25), which is read without a wait -/
  | pending (r : Reg)
  /-- 1 if a TLB flush waits, else 0 -/
  | flushWaits
  /-- the saved flags, as a CSR would read fl -/
  | savedFlags
  /-- A, the address of the instruction -/
  | here
  /-- A + 2 -/
  | next
  /-- the info of the cause: the number of the register for the fault, x for sysc, 0 for the others -/
  | info
  /-- the word in memory at an address, as a word load reads it -/
  | word (address : TrapExpr)
  | combine (op : TrapOp) (a b : TrapExpr)
  /-- `a` where the condition is not 0, else `b` -/
  | choose (condition a b : TrapExpr)
deriving DecidableEq, Repr

/-- A write a platform makes beyond the ones that have a field of their own. -/
inductive TrapWrite where
  | reg (r : Reg) (v : TrapExpr)
  | csr (k : BitVec 6) (v : TrapExpr)
  | ira (v : TrapExpr)
  | flags (v : TrapExpr)
  | savedFlags (v : TrapExpr)
  /-- interrupts are masked where the value is not 0 -/
  | masked (v : TrapExpr)
  | memory (address v : TrapExpr)
  /-- an interrupt is pending where the value is not 0 -/
  | pen (v : TrapExpr)
  /-- a TLB flush that waits happens now (R223) where the value is not 0 -/
  | flushTlb (v : TrapExpr)
  /-- a TLB flush waits where the value is not 0 -/
  | flushWaits (v : TrapExpr)
  /-- no earlier store is outstanding (R63) where the value is not 0 -/
  | fence (v : TrapExpr)
deriving DecidableEq, Repr

/-- Which outstanding loads a trap entry waits for first (R289, R291): none, so that every pending load stays pending
across the entry; those into rp and the other registers the entry reads or writes; or all of them. -/
inductive EntryWaits where
  | nothing
  | needed
  | all
deriving DecidableEq, Repr

/-- TRAP_ENTRY for one cause (R283, R289, R290): the points the source leaves open. That rp is saved to memory and that
ira receives the return address is not open and is no field. -/
structure TrapSequence where
  /-- the memory address where rp is saved -/
  rpSave : TrapExpr
  /-- the handler address -/
  handler : TrapExpr
  /-- what rp holds afterwards: unchanged, or a value -/
  rpAfter : Option TrapExpr
  /-- whether fl is saved -/
  savesFlags : Bool
  /-- whether further interrupts are masked -/
  masks : Bool
  /-- which outstanding loads are waited for first -/
  waits : EntryWaits
  /-- whether ira is A + 2 instead of A (R290); an interrupt resumes at the instruction not yet executed -/
  skips : Bool
  /-- what else is written: how the info reaches the handler, whether sp moves -/
  writes : List TrapWrite
deriving DecidableEq, Repr

/-- TRAP_ENTRY (R289): the sequence of each cause. Whether one sequence serves them all is the platform's to say, by
giving the same one four times or not. -/
structure TrapEntry where
  onFault : TrapSequence
  onBreakpoint : TrapSequence
  onSystemCall : TrapSequence
  onInterrupt : TrapSequence
deriving DecidableEq, Repr

/-- TRAP_RETURN (R224, R292): what rfi does beside `ip <- ira`. -/
structure TrapReturn where
  /-- the memory address rp is reloaded from, if rfi reloads it -/
  rpReload : Option TrapExpr
  /-- whether that reload leaves rp pending with the word, as a load does (R202); otherwise rp holds it at once -/
  reloadPends : Bool
  /-- whether fl is restored -/
  restoresFlags : Bool
  /-- whether interrupts are enabled again -/
  unmasks : Bool
  /-- what else is written, such as sp -/
  writes : List TrapWrite
deriving DecidableEq, Repr

/-- The platform record of R301. -/
structure Platform where
  /-- CSR_MAP: the CSR numbers bound to a name, the first binding of a number counts -/
  csrMap : List (BitVec 6 × Csr)
  /-- TRAP_ENTRY -/
  trapEntry : Option TrapEntry
  /-- TRAP_RETURN -/
  trapReturn : Option TrapReturn
  /-- INTERRUPT_SOURCE: supplied or absent; the events say at which boundaries a request arrives -/
  interruptSource : Bool
  /-- VM: the addresses that are not translated to themselves, each with its address or, for a fault, none; the first
  entry of an address counts. With no entry translation is the identity (R66). -/
  vm : List (Word × Option Word)
  /-- RESET_IP, bits 15:1 of the even address -/
  resetIp : Option (BitVec 15)
deriving DecidableEq, Repr

/-- The platform with every field absent (R301): the default of the spec. -/
def Platform.absent : Platform :=
  { csrMap := [], trapEntry := none, trapReturn := none, interruptSource := false, vm := [], resetIp := none }

end Sys2Proof.Machine
end

