-- ==== Sys2Proof/Machine/State.lean ====
section
/-! DEFINITION. The machine's state, its faults and refusals, and the state after reset (10_state.md; 60_exceptions.md
R284, R301). INVENTORY.md lists each field with its rule. -/

namespace Sys2Proof.Machine

/-- One value for each of the seven general registers r1 to r7 (R20). r0 has no storage (R21). -/
structure Bank (α : Type) where
  rp : α
  sp : α
  x1 : α
  x2 : α
  x3 : α
  t1 : α
  t2 : α
deriving DecidableEq, Repr

/-- The named flags of the 4-bit register fl (R32). The unnamed fourth bit is `any` at every read. -/
structure Flags where
  c : Bool
  s : Bool
  z : Bool
deriving DecidableEq, Repr

/-- Memory: the bytes placed or stored, as address and byte pairs with strictly rising addresses (R50).
An address not listed holds the unknown byte `Config.initialByte` of that address. -/
abbrev Memory := List Host.Cell

/-- The state of the machine. Plain data; the order is that of INVENTORY.md. -/
structure State where
  /-- r1 to r7 (R20) -/
  regs : Bank Word
  /-- for each of r1 to r7 the async resolved bit and the in-flight record: `none` is resolved, `some v` is
  pending and will receive `v` (R25, R29, R202) -/
  inflight : Bank (Option Word)
  /-- address bits 15:1 of the next instruction (R30) -/
  ip : BitVec 15
  /-- fl (R32) -/
  flags : Flags
  /-- an interrupt is pending (R287) -/
  pen : Bool
  /-- the interrupt return address (R290) -/
  ira : Word
  /-- the words of the CSRs that are not ip, fl, pen or ira, by number (R36) -/
  csrs : Vector Word 64
  /-- the model's own: fl as a trap entry that saves it left it (R289) -/
  savedFlags : Flags
  /-- interrupts are masked, by a trap entry that masks them (R289) and until an rfi that enables them (R292) -/
  masked : Bool
  /-- a trap is taken and its entry waits for a load it has to read or write after (R289, R291) -/
  entering : Option Cause
  /-- a TLB flush waits for the next jump (R223) -/
  flushPending : Bool
  /-- TLB contents (R37): translations held, none with translation off -/
  tlb : List (Word × Word)
  /-- memory (R50) -/
  mem : Memory
  /-- the memory instructions are fetched from where MEM_UNIFIED is false (R7, D3); unused where it is true -/
  code : Memory
  /-- outstanding stores (R37, R62): under MEM_ORDER `fenced` the byte addresses stored to since the last fence -/
  unfenced : List Word
  /-- the program image: first address and number of bytes of each range (R64); a range wraps at 0xFFFF -/
  image : List (Word × Nat)
  /-- the parameters (R7) -/
  params : Params
  /-- the platform (R301) -/
  platform : Platform
  /-- the model's own: the coming events, one a step (R29, R286) -/
  inputs : List Event
  /-- the model's own: the number of steps taken -/
  clock : Nat
  /-- the model's own: the number of free values drawn (R11 `any`) -/
  draws : Nat
deriving DecidableEq, Repr

/-- Why the machine stops. -/
inductive Fault where
  /-- A trap was taken and the platform supplies no TRAP_ENTRY: the terminal outcome Trap(cause, info, A)
  of R284, with the address A of the instruction. Raised by the one operation that takes a trap, for a
  pending write, bkpt, sysc and an interrupt. Safe: nothing after the trap can be claimed. -/
  | trap (cause : Cause) (a : Word)
  /-- wfi with no interrupt pending and no INTERRUPT_SOURCE: the terminal outcome Sleeping of R225 and R293,
  with the address of wfi. Safe. -/
  | sleeping (a : Word)
deriving DecidableEq, Repr

/-- Where the spec gives no step (`refuse(reason)`, R100); the names are the spec's. All are safe: no claim
about a run that reaches one can be proved beyond that it stops there. -/
inductive Refusal where
  /-- The instruction has no meaning in this model yet. Raised by exec's own arms only. Safe. -/
  | notModelled (mnemonic : String)
  /-- opcode 01111 (R101), raised by the meaning of that row. Safe. -/
  | reservedOpcode
  /-- jmpdl of zr with F = 64, 128 or two or more bits (R102, R228), raised by those rows and for the
  decoder's rejection. Safe. -/
  | reservedControlFlag
  /-- brh with condition 011 or 111 (R103), raised by those rows. Safe. -/
  | reservedCondition
  /-- jmpd or jmpdl of a register other than zr with F not 0 (R104), raised for the decoder's rejection. Safe. -/
  | unspecifiedJumpFlags
  /-- fewer than two bytes reached the decoder; the fetch gives it two, so no step raises it. Safe. -/
  | truncatedFetch
  /-- a word access at an odd address (R57), raised by mldw, mstw, xchw, mclrw, and by a trap entry or return whose
  platform names an odd address. Safe. -/
  | misalignedWord
  /-- a store or exchange that overlaps the program image (R64), raised by mst, mstw, xch, xchw, mclr, mclrw and by a
  trap entry or return whose platform stores there. Safe. -/
  | storeToText
  /-- an effective address past 0xFFFF where ADDR_WRAP is false (R58, D19), raised by the loads, stores and exchanges.
  Unreachable at the spec's choice. Safe. -/
  | addressPastEnd
  /-- an address for which the platform's VM answers fault (R66, R301), whose effect R281 leaves open; raised by fetch,
  loads, stores, exchanges, and trap entries and returns. Unreachable with VM absent. Safe. -/
  | translationFault
  /-- csrr or csrw of a number the platform has not bound (R216, R217). Safe. -/
  | unboundCsr
  /-- a csrw the source does not describe (R217, D41; R66 for virtual memory configuration). Safe. -/
  | unspecifiedCsrWrite
  /-- rfi with no TRAP_RETURN (R224). Safe. -/
  | noTrapReturn
deriving DecidableEq, Repr

/-- What an instruction, or a step, answers. -/
abbrev Result := Host.Outcome State Fault Refusal

/-- The same value in every register of a bank. -/
def Bank.all {α : Type} (v : α) : Bank α := ⟨v, v, v, v, v, v, v⟩

/-- The machine right after reset with given parameters and platform, at a program's stated start address (R38, R301,
R311). The spec gives: ip at RESET_IP or else the start address, nothing pending, no interrupt pending, translation
as VM says. This model's own (DESIGN CHOICE): the values of registers, flags and CSRs, which the spec leaves unspecified
(notes/assumptions/1.md to 4.md); an empty TLB, and that no TLB flush waits, `flushPending := false`, which the reset
tables of R38 and R311 do not list (36.md); that interrupts are not masked, no trap entry waits and no store is outstanding (48.md). -/
def State.resetOf (params : Params) (platform : Platform) (start : BitVec 15) : State where
  regs := Bank.all 0
  inflight := Bank.all none
  ip := platform.resetIp.getD start
  flags := ⟨false, false, false⟩
  pen := false
  ira := 0
  csrs := Vector.replicate 64 0
  savedFlags := ⟨false, false, false⟩
  masked := false
  entering := none
  flushPending := false
  tlb := []
  mem := []
  code := []
  unfenced := []
  image := []
  params := params
  platform := platform
  inputs := []
  clock := 0
  draws := 0

/-- The machine right after reset at the spec's own choices: the parameters of R7, every platform field absent (R301),
start address 0x0000, the value R38 suggests. The values the spec does not give, `flushPending := false` among them, are
this model's: see `State.resetOf`. -/
def State.reset : State := State.resetOf Params.spec Platform.absent 0

end Sys2Proof.Machine
end

