-- ==== Sys2Proof/Machine/Flags.lean ====
section
/-! DEFINITION. The flag computations: the carry of R34, the flag classes of R33, the 4-bit view of fl of
R32, and the condition tests of R35. -/

namespace Sys2Proof.Machine

/-- A sum or difference: the 16-bit value, the flag c it leaves, and whether the exact signed result is negative. -/
structure Sum where
  value : Word
  carry : Bool
  negative : Bool
deriving DecidableEq, Repr

/-- `t = u(a) + u(b) + cin` in 17 bits: the value is t[15:0], c is t[16] (R34). -/
def addWithCarry (a b : Word) (cin : Bool) : Sum :=
  let t := a.toNat + b.toNat + cin.toNat
  ⟨BitVec.ofNat 16 t, t.testBit 16, decide (a.toInt + b.toInt + cin.toNat < 0)⟩

/-- `t = u(a) + u(~b) + cin`; c is t[16], or its complement without SUB_CARRY_NOT_BORROW (R34). -/
def subWithCarry (p : Params) (a b : Word) (cin : Bool) : Sum :=
  let t := addWithCarry a (~~~b) cin
  { t with carry := if p.subCarryNotBorrow then t.carry else !t.carry }

/-- Bit 15 of a result (R32). -/
def signOf (v : Word) : Bool := v.getLsbD 15

/-- Flag s after an arithmetic instruction: bit 15 of the result, or without FLAG_S_IS_BIT15 the sign of the exact
result, which is bit 15 corrected for overflow (R32, D9). -/
def Sum.sign (p : Params) (t : Sum) : Bool := if p.flagSIsBit15 then signOf t.value else t.negative

/-- Flag z: the 16-bit result is 0 (R32). -/
def zeroOf (v : Word) : Bool := v == 0

/-- The free value the next draw gives (R11 `any`). -/
def State.nextDraw (s : State) : Word := Config.draw s.draws

/-- The state after one draw. -/
def State.drawn (s : State) : State := { s with draws := s.draws + 1 }

/-- Replaces the three named flags. -/
def State.setFlags (f : Flags) (s : State) : State := { s with flags := f }

/-- Class FW arithmetic (R33): z and s from the result, c from the carry. -/
def arithFlags (t : Sum) (s : State) : State :=
  s.setFlags ⟨t.carry, t.sign s.params, zeroOf t.value⟩

/-- Flag c after a logical instruction: `any`, or as LOGIC_C_POLICY says (R33, D11). -/
def State.logicCarry (s : State) : Bool :=
  match s.params.logicCPolicy with
  | .any => s.nextDraw.getLsbD 0
  | .cleared => false
  | .kept => s.flags.c

/-- Class FW logical (R33, R130): z and s from the result, c by LOGIC_C_POLICY. -/
def logicFlags (v : Word) (s : State) : State :=
  (s.setFlags ⟨s.logicCarry, signOf v, zeroOf v⟩).drawn

/-- fl after a class FU instruction with result `v`: c, s and z are each `any`, or as FU_POLICY says (R33, D10). -/
def State.fuFlags (s : State) (v : Word) : Flags :=
  match s.params.fuPolicy with
  | .any => ⟨s.nextDraw.getLsbD 0, s.nextDraw.getLsbD 1, s.nextDraw.getLsbD 2⟩
  | .kept => s.flags
  | .fromResult => ⟨s.nextDraw.getLsbD 0, signOf v, zeroOf v⟩

/-- Class FU (R33). -/
def freeFlags (v : Word) (s : State) : State := (s.setFlags (s.fuFlags v)).drawn

/-- Class FW flag set (R33, R226, R227): c only. -/
def carryFlag (c : Bool) (s : State) : State := s.setFlags { s.flags with c := c }

/-- Class FN (R33): fl unchanged. -/
def sameFlags (s : State) : State := s

/-- Bit `j` of fl: the flag FL_LAYOUT places there, and a free bit in the place it names no flag for (R32). -/
def flagBit (l : FlLayout) (f : Flags) (free : Word) (j : Fin 4) : Bool :=
  if j = l.c then f.c else if j = l.s then f.s else if j = l.z then f.z else free.getLsbD j

/-- fl as a CSR reads it (R32, R216): at the spec's FL_LAYOUT c is bit 0, s bit 1, z bit 2 and bit 3 is `any`. -/
def flagsWord (l : FlLayout) (f : Flags) (free : Word) : Word :=
  (0 : BitVec 12) ++ BitVec.ofBool (flagBit l f free 3) ++ BitVec.ofBool (flagBit l f free 2) ++
    BitVec.ofBool (flagBit l f free 1) ++ BitVec.ofBool (flagBit l f free 0)

/-- fl as a CSR write sets it: each flag from its bit, the rest ignored (R217, D12). -/
def flagsOfWord (l : FlLayout) (v : Word) : Flags := ⟨v.getLsbD l.c, v.getLsbD l.s, v.getLsbD l.z⟩

end Sys2Proof.Machine
end

