-- ==== Sys2Proof/Machine/Operands.lean ====
section
/-! DEFINITION. How each field becomes an operand (30_encoding.md R90), the effective addresses (R58, R195), the
jump targets (R175 to R184), the shifts (R150, R152) and the comparison of slt (R117). -/

namespace Sys2Proof.Machine

/-- `sext_16(imm8)`: addi, cmpi, iori, andi, xori, lli (R90). -/
def sext8 (imm : BitVec 8) : Word := imm.signExtend 16
/-- `zext_16(imm8)`: ioriu, andiu, biti, xoriu (R90). -/
def zext8 (imm : BitVec 8) : Word := imm.zeroExtend 16
/-- `imm8 ++ 0x00`: lui (R90). -/
def upper8 (imm : BitVec 8) : Word := imm ++ 0#8

/-- `imm11 ++ 00000`, the byte address of jmp and jmpl (R90). -/
def absTarget (imm : BitVec 11) : Word := imm ++ 0#5
/-- The target of jmpr and jmprl at address `a`: `a + IP_REL_BASE + (sext_16(imm11) << 1)` (R179). -/
def relTarget11 (p : Params) (a : Word) (imm : BitVec 11) : Word := a + p.ipRelBase + (imm.signExtend 16 <<< 1)
/-- The target of a taken brh at address `a`: `a + IP_REL_BASE + (sext_16(imm8) << 1)` (R184). -/
def relTarget8 (p : Params) (a : Word) (imm : BitVec 8) : Word := a + p.ipRelBase + (imm.signExtend 16 <<< 1)

/-- The offset of the byte forms (R58, R90). -/
def byteOffset (imm : BitVec 5) : Word := imm.zeroExtend 16
/-- The offset of the word forms, doubled (R58, R90). -/
def wordOffset (imm : BitVec 5) : Word := imm.zeroExtend 16 <<< 1
/-- `ea` of the byte forms: base plus the unsigned offset, modulo 2^16 (R58, R195). -/
def byteAddress (base : Word) (imm : BitVec 5) : Word := base + byteOffset imm
/-- `ea` of the word forms: base plus twice the unsigned offset, modulo 2^16 (R58, R195). -/
def wordAddress (base : Word) (imm : BitVec 5) : Word := base + wordOffset imm

/-- A loaded byte sign-extended (R59). -/
def sextByte (b : Byte) : Word := b.signExtend 16
/-- Bits 7:0. -/
def lowByte (v : Word) : Byte := v.extractLsb' 0 8
/-- Bits 15:8. -/
def highByte (v : Word) : Byte := v.extractLsb' 8 8
/-- The byte mst and xch store: bits 7:0, as STORE_BYTE_SELECT says (R59, D17). -/
def storedByte (p : Params) (v : Word) : Byte :=
  match p.storeByteSelect with
  | .low => lowByte v
  | .high => highByte v

/-- `SL(v, n)` (R150). -/
def shiftLeft (v : Word) (n : Nat) : Word := v <<< n
/-- `SR(v, n)` (R150). -/
def shiftRight (v : Word) (n : Nat) : Word := v >>> n
/-- `SRS(v, n)` (R150). -/
def shiftRightSigned (v : Word) (n : Nat) : Word := v.sshiftRight n
/-- `RR(v, n)` (R150): `(v >> n) | (v << (16 - n))`; by 0, and by 16 and its multiples, it is `v`. -/
def rotateRight (v : Word) (n : Nat) : Word := (v >>> (n % 16)) ||| (v <<< (16 - n % 16))

/-- The amount of the register forms: the low bits of the amount register (R152, SHIFT_REG_AMOUNT). -/
def regAmount (p : Params) (v : Word) : Nat := v.toNat % 2 ^ p.shiftRegAmount

/-- The comparison of slt (R117): exact, or bit 15 of the difference without SLT_EXACT. -/
def signedLess (p : Params) (a b : Word) : Bool := if p.sltExact then decide (a.toInt < b.toInt) else (a - b).getLsbD 15
/-- The comparison of sltu (R118). -/
def unsignedLess (a b : Word) : Bool := decide (a.toNat < b.toNat)
/-- 1 or 0 as a register value (R117, R118). -/
def boolWord (b : Bool) : Word := if b then 1 else 0

end Sys2Proof.Machine
end

