-- ==== Sys2Proof/Machine/Ops.lean ====
section
/-! DEFINITION. The shared operations: registers with their async resolved bits (10_state.md R21, R25 to R29), the
instruction pointer (R30, R31), memory (20_memory.md R50 to R64), taking a trap and returning from one
(60_exceptions.md R283 to R292), and the two shapes every meaning is built from, the hold of a pending source
(R27) and the write of a destination (R28). -/

namespace Sys2Proof.Machine

/-! Registers. -/

/-- The value a bank holds for a register; `z` for zr, which has no slot (R21). -/
def Bank.get {α : Type} (b : Bank α) (z : α) : Reg → α
  | .zr => z | .rp => b.rp | .sp => b.sp | .x1 => b.x1 | .x2 => b.x2 | .x3 => b.x3 | .t1 => b.t1 | .t2 => b.t2

/-- Replaces the value a bank holds for a register; for zr nothing changes (R21). -/
def Bank.set {α : Type} (b : Bank α) (r : Reg) (v : α) : Bank α :=
  match r with
  | .zr => b
  | .rp => { b with rp := v }
  | .sp => { b with sp := v }
  | .x1 => { b with x1 := v }
  | .x2 => { b with x2 := v }
  | .x3 => { b with x3 := v }
  | .t1 => { b with t1 := v }
  | .t2 => { b with t2 := v }

/-- `x[i]`, the value read (R11, R21). -/
def State.reg (s : State) (r : Reg) : Word := s.regs.get 0 r

/-- The write of `x[i]`; a write to zr changes nothing (R21). -/
def State.setReg (r : Reg) (v : Word) (s : State) : State := { s with regs := s.regs.set r v }

/-- The data a register waits for, if a load into it is outstanding (R25). -/
def State.awaited (s : State) (r : Reg) : Option Word := s.inflight.get none r

/-- `pending(i)` (R25); zr is never pending (R21). -/
def State.pending (s : State) (r : Reg) : Bool := (s.awaited r).isSome

/-- All eight register names. -/
def allRegs : List Reg := [.zr, .rp, .sp, .x1, .x2, .x3, .t1, .t2]

/-- Some register is pending. -/
def State.anyPending (s : State) : Bool := allRegs.any s.pending

/-- The start of a load: the value is fixed and the register becomes pending; for zr nothing happens (R202). -/
def State.startLoad (r : Reg) (v : Word) (s : State) : State := { s with inflight := s.inflight.set r (some v) }

/-- `resolve(i)` (R29): the register takes the loaded value and its bit is set. -/
def State.resolve (r : Reg) (s : State) : State :=
  match s.awaited r with
  | none => s
  | some v => { s.setReg r v with inflight := s.inflight.set r none }

/-! The instruction pointer. -/

/-- `A`, the byte address of the instruction (R11, R30). -/
def State.addr (s : State) : Word := s.ip ++ 0#1

/-- Loads ip from a byte address, of which bit 0 is dropped (R30, R182). -/
def State.setIp (t : Word) (s : State) : State := { s with ip := t.extractLsb' 1 15 }

/-- The end of an instruction that does not jump: `ip <- A + 2` (R31). -/
def State.advance (s : State) : State := s.setIp (s.addr + 2)

/-- A jump or branch to `t`. Where it changes ip to other than A + 2 it is a taken jump, and a TLB flush that
waits for one happens (R223). -/
def State.jumpTo (t : Word) (s : State) : State :=
  let flush := s.flushPending && decide ((s.setIp t).addr ≠ s.addr + 2)
  { s.setIp t with tlb := if flush then [] else s.tlb, flushPending := s.flushPending && !flush }

/-! Memory. -/

/-- The byte listed for an address. -/
def Memory.read? : Memory → Nat → Option Byte
  | [], _ => none
  | (b, v) :: m, a => if b = a then some v else Memory.read? m a

/-- The write of one byte, which keeps the list's addresses strictly rising. -/
def Memory.write : Memory → Nat → Byte → Memory
  | [], a, v => [(a, v)]
  | (b, w) :: m, a, v =>
    if a < b then (a, v) :: (b, w) :: m
    else if a = b then (a, v) :: m
    else (b, w) :: Memory.write m a v

/-- The canonical form: addresses strictly rising and below 2^16. -/
def Memory.wf : Memory → Bool
  | [] => true
  | [(a, _)] => decide (a < 65536)
  | (a, _) :: (b, w) :: m => decide (a < b) && Memory.wf ((b, w) :: m)

/-- The byte at an address: the listed one, or the unknown byte that stood there from the start (R38, R62). -/
def State.readByte (s : State) (a : Word) : Byte := (Memory.read? s.mem a.toNat).getD (Config.initialByte a.toNat)

/-- `MemRead(a, 2)`: `Mem[a+1] ++ Mem[a]` (R53). -/
def State.readWord (s : State) (a : Word) : Word := s.readByte (a + 1) ++ s.readByte a

/-- `MemWrite(a, 1, v)`. -/
def State.writeByte (a : Word) (v : Byte) (s : State) : State := { s with mem := Memory.write s.mem a.toNat v }

/-- `MemWrite(a, 2, v)`: bits 7:0 at `a`, bits 15:8 at `a + 1` (R53). -/
def State.writeWord (a : Word) (v : Word) (s : State) : State :=
  (s.writeByte a (lowByte v)).writeByte (a + 1) (highByte v)

/-- The byte of the separate instruction memory (R7, MEM_UNIFIED false). -/
def State.readCodeByte (s : State) (a : Word) : Byte :=
  (Memory.read? s.code a.toNat).getD (Config.initialCodeByte a.toNat)

/-- The placing of a byte in the separate instruction memory. -/
def State.writeCodeByte (a : Word) (v : Byte) (s : State) : State :=
  { s with code := Memory.write s.code a.toNat v }

/-- The address lies in the program image (R64). A range wraps at 0xFFFF, as its bytes do (D19;
notes/assumptions/25.md). -/
def State.inImage (s : State) (a : Word) : Bool :=
  s.image.any fun range => decide ((a - range.1).toNat < range.2)

/-- A store to the byte has no step: it is in the program image (R64, FETCH_COHERENCE) and the image is in data memory
(MEM_UNIFIED). -/
def State.keepsText (s : State) (a : Word) : Bool :=
  decide (s.params.fetchCoherence = .refuse) && s.params.memUnified && s.inImage a

/-- An odd address (R57). -/
def oddAddress (a : Word) : Bool := a.getLsbD 0

/-- A word access at the address has no step: it is odd (R57, MISALIGNED_WORD). -/
def State.misaligned (s : State) (a : Word) : Bool :=
  decide (s.params.misalignedWord = .refuse) && oddAddress a

/-- The address VM gives for an address, and none for its fault (R66, R301). -/
def translateBy (vm : List (Word × Option Word)) (a : Word) : Option Word :=
  match vm with
  | [] => some a
  | (b, t) :: rest => if b = a then t else translateBy rest a

/-- The translation of an address by the platform. -/
def State.translate (s : State) (a : Word) : Option Word := translateBy s.platform.vm a

/-- The effective address of a memory instruction (R58): modulo 2^16, or without ADDR_WRAP no step past 0xFFFF. -/
def State.effective (s : State) (base offset : Word) : Except Refusal Word :=
  if !s.params.addrWrap && decide (65536 ≤ base.toNat + offset.toNat) then .error .addressPastEnd
  else .ok (base + offset)

/-- An earlier store to the byte has had no fence since, and MEM_ORDER is `fenced` (R62). -/
def State.unordered (s : State) (a : Word) : Bool :=
  decide (s.params.memOrder = .fenced) && s.unfenced.contains a

/-- A store to the byte is remembered until the next fence where MEM_ORDER is `fenced` (R62, R63). -/
def State.recordStore (a : Word) (s : State) : State :=
  { s with unfenced := if s.params.memOrder = .fenced then a :: s.unfenced else s.unfenced }

/-- The byte a load of an address gives (R62): what memory holds, or `any` after an unfenced store. -/
def loadByte (a : Word) (s : State) : Except Refusal Byte :=
  match s.translate a with
  | none => .error .translationFault
  | some p => .ok (if s.unordered p then Config.unorderedByte s.draws p else s.readByte p)

/-- The word a load of an address gives: no step at an odd address (R57), `any` where one of the two bytes has an
unfenced store (R62). -/
def loadWord (a : Word) (s : State) : Except Refusal Word :=
  if s.misaligned a then .error .misalignedWord
  else match s.translate a, s.translate (a + 1) with
    | some p, some q =>
      .ok (if s.unordered p || s.unordered q then Config.unorderedByte s.draws q ++ Config.unorderedByte s.draws p
        else s.readByte q ++ s.readByte p)
    | _, _ => .error .translationFault

/-- The store of a byte, refused in the program image (R64, FETCH_COHERENCE). -/
def storeByte (a : Word) (v : Byte) (s : State) : Except Refusal State :=
  match s.translate a with
  | none => .error .translationFault
  | some p => if s.keepsText p then .error .storeToText else .ok ((s.recordStore p).writeByte p v)

/-- The store of a word, refused at an odd address (R57, MISALIGNED_WORD) and in the program image (R64). -/
def storeWord (a : Word) (v : Word) (s : State) : Except Refusal State :=
  if s.misaligned a then .error .misalignedWord
  else match s.translate a, s.translate (a + 1) with
    | some p, some q =>
      if s.keepsText p || s.keepsText q then .error .storeToText
      else .ok ((((s.recordStore p).recordStore q).writeByte p (lowByte v)).writeByte q (highByte v))
    | _, _ => .error .translationFault

/-! CSR words. -/

/-- The word of the CSR numbered `k` in the CSR file (R36). -/
def State.csrWord (s : State) (k : BitVec 6) : Word := s.csrs.get k.toFin

/-- Replaces the word of the CSR numbered `k`. -/
def State.setCsrWord (k : BitVec 6) (v : Word) (s : State) : State :=
  { s with csrs := s.csrs.set k.toNat v k.isLt }

/-! Traps: the values a platform computes. -/

/-- The number of a register (R20). -/
def regNumber : Reg → Word
  | .zr => 0 | .rp => 1 | .sp => 2 | .x1 => 3 | .x2 => 4 | .x3 => 5 | .t1 => 6 | .t2 => 7

/-- The info of a cause as a value (R281): the register of the fault, x of sysc; the source states none for the
others. -/
def Cause.info : Cause → Word
  | .pendingWrite r => regNumber r
  | .systemCall x => x.zeroExtend 16
  | .breakpoint | .interrupt => 0

/-- What a platform combines two values to. -/
def TrapOp.apply : TrapOp → Word → Word → Word
  | .plus, a, b => a + b
  | .minus, a, b => a - b
  | .and, a, b => a &&& b
  | .or, a, b => a ||| b
  | .xor, a, b => a ^^^ b
  | .shiftLeft, a, b => Machine.shiftLeft a b.toNat
  | .shiftRight, a, b => Machine.shiftRight a b.toNat
  | .less, a, b => boolWord (unsignedLess a b)

/-- The registers a platform's value is computed from. -/
def TrapExpr.sources : TrapExpr → List Reg
  | .reg r => [r]
  | .word a => a.sources
  | .combine _ a b => a.sources ++ b.sources
  | .choose c a b => c.sources ++ a.sources ++ b.sources
  | .const _ | .csr _ | .ira | .flags | .pen | .masked | .pending _ | .flushWaits | .savedFlags | .here | .next | .info => []

/-- What a trap entry reads of a register: its value, and of a pending one a free value, since the spec says what an
instruction does there (R27) and not what an entry reads (R289, R291; notes/assumptions/45.md). -/
def State.regAtTrap (s : State) (r : Reg) : Word := if s.pending r then Config.pendingValue s.draws r else s.reg r

/-- The value a platform computes, in the state the trap is entered or rfi executed in. It has no step where a word it
reads from memory has none. The free bits of fl and of the saved flags are different bits of one draw, as is that of a
free pen; within one entry or return a second read of either gives the same bit (notes/assumptions/6.md). -/
def TrapExpr.value (info : Word) (s : State) : TrapExpr → Except Refusal Word
  | .const v => .ok v
  | .reg r => .ok (s.regAtTrap r)
  | .csr k => .ok (s.csrWord k)
  | .ira => .ok s.ira
  | .flags => .ok (flagsWord s.params.flLayout s.flags s.nextDraw)
  | .pen => .ok (boolWord s.pen)
  | .masked => .ok (boolWord s.masked)
  | .pending r => .ok (boolWord (s.pending r))
  | .flushWaits => .ok (boolWord s.flushPending)
  | .savedFlags => .ok (flagsWord s.params.flLayout s.savedFlags (s.nextDraw >>> 5))
  | .here => .ok s.addr
  | .next => .ok (s.addr + 2)
  | .info => .ok info
  | .word a => do loadWord (← a.value info s) s
  | .combine op a b => do return op.apply (← a.value info s) (← b.value info s)
  | .choose c a b => do if (← c.value info s) = 0 then b.value info s else a.value info s

/-- The registers a further write reads. -/
def TrapWrite.sources : TrapWrite → List Reg
  | .reg _ e | .csr _ e | .ira e | .flags e | .savedFlags e | .masked e | .pen e => e.sources
  | .flushTlb e | .flushWaits e | .fence e => e.sources
  | .memory a e => a.sources ++ e.sources

/-- The registers a further write writes. -/
def TrapWrite.targets : TrapWrite → List Reg
  | .reg r _ => [r]
  | .csr .. | .ira _ | .flags _ | .savedFlags _ | .masked _ | .memory .. | .pen _ => []
  | .flushTlb _ | .flushWaits _ | .fence _ => []

/-- A further write made in `t`, with its values computed in `s`. -/
def TrapWrite.apply (info : Word) (s : State) (w : TrapWrite) (t : State) : Except Refusal State :=
  match w with
  | .reg r e => do return t.setReg r (← e.value info s)
  | .csr k e => do return t.setCsrWord k (← e.value info s)
  | .ira e => do return { t with ira := ← e.value info s }
  | .flags e => do return t.setFlags (flagsOfWord s.params.flLayout (← e.value info s))
  | .savedFlags e => do return { t with savedFlags := flagsOfWord s.params.flLayout (← e.value info s) }
  | .masked e => do return { t with masked := decide ((← e.value info s) ≠ 0) }
  | .memory a e => do storeWord (← a.value info s) (← e.value info s) t
  | .pen e => do return { t with pen := decide ((← e.value info s) ≠ 0) }
  | .flushTlb e => do
    let now := decide ((← e.value info s) ≠ 0)
    return { t with tlb := if now && t.flushPending then [] else t.tlb, flushPending := !now && t.flushPending }
  | .flushWaits e => do return { t with flushPending := decide ((← e.value info s) ≠ 0) }
  | .fence e => do
    let v ← e.value info s
    return { t with unfenced := if v = 0 then t.unfenced else [] }

/-- The further writes, one after the other, each with its values computed in `s`. -/
def applyWrites (info : Word) (s : State) : List TrapWrite → State → Except Refusal State
  | [], t => .ok t
  | w :: ws, t => do applyWrites info s ws (← w.apply info s t)

/-! Traps: entry. -/

/-- A computed next state, or a refusal. -/
def answer : Except Refusal State → Result
  | .error r => .refused r
  | .ok s => .next s

/-- The sequence of a cause (R289). -/
def TrapEntry.sequence (e : TrapEntry) : Cause → TrapSequence
  | .pendingWrite _ => e.onFault
  | .breakpoint => e.onBreakpoint
  | .systemCall _ => e.onSystemCall
  | .interrupt => e.onInterrupt

/-- The registers an entry waits for (R289, R291; notes/assumptions/45.md): none; rp, which it saves, and the others it
reads or writes; or all of them. -/
def TrapSequence.needs (q : TrapSequence) : List Reg :=
  match q.waits with
  | .nothing => []
  | .needed => .rp :: (q.rpSave.sources ++ q.handler.sources ++ (q.rpAfter.elim [] TrapExpr.sources) ++
      q.writes.flatMap fun w => w.sources ++ w.targets)
  | .all => allRegs

/-- The return address ira receives (R290): for an interrupt the instruction not yet executed; for the others
the instruction itself or the next one, as the platform says. -/
def TrapSequence.returnAddress (q : TrapSequence) (cause : Cause) (a : Word) : Word :=
  if q.skips && decide (cause ≠ .interrupt) then a + 2 else a

/-- The pending-interrupt state after an entry that does not write it: an interrupt may leave it as it was or clear it,
which is not stated, so it is `any`; the other causes do not touch it (R287). -/
def penAfterEntry (cause : Cause) (s : State) : State :=
  match cause with
  | .interrupt => { s with pen := s.nextDraw.getLsbD 4 }
  | .pendingWrite _ | .breakpoint | .systemCall _ => s

/-- The trap entry of a platform once the registers it waits for are ready (R289): the platform's further writes, then
rp saved to memory and ira set to the return address, fl saved and interrupts masked as the platform says, rp as it
says, and ip at the handler. All values are computed in the state before the entry. Pending loads stay pending across
it and resolve later as usual (R291), over a value the entry may have written to their register. The entry is not the
jump that lets a waiting TLB flush happen: unless the platform says so in a further write, tlb and flushPending stay
(R223 does not say; notes/assumptions/36.md). -/
def completeEntry (q : TrapSequence) (cause : Cause) (s : State) : Except Refusal State := do
  let save ← q.rpSave.value cause.info s
  let handler ← q.handler.value cause.info s
  let rpAfter ← q.rpAfter.mapM (TrapExpr.value cause.info s)
  let t ← applyWrites cause.info s q.writes (penAfterEntry cause s)
  let u ← storeWord save (s.regAtTrap .rp) t
  let v := { u with
    ira := q.returnAddress cause s.addr, entering := none, masked := q.masks || u.masked, draws := s.draws + 1
    savedFlags := if q.savesFlags then s.flags else u.savedFlags }
  return (match rpAfter with
    | none => v
    | some w => v.setReg .rp w).setIp handler

/-- The trap entry of a platform (R283, R289, R291). While a register it waits for is pending the trap is taken, nothing
but that is changed, the load resolves in its own time (R29), and `step` comes back here. An entry that waits for
nothing is done at once, every pending load staying pending. How x of sysc reaches a handler is the platform's,
through the info in a further write (R220; notes/assumptions/31.md). -/
def enterTrap (e : TrapEntry) (cause : Cause) (s : State) : Result :=
  let q := e.sequence cause
  if q.needs.any s.pending then .next { s with entering := some cause }
  else answer (completeEntry q cause s)

/-- `raise <Cause>(info)` (R283): the instruction makes none of its writes and a trap is taken. With no
TRAP_ENTRY the run ends with Trap(cause, info, A) (R284). -/
def takeTrap (cause : Cause) (s : State) : Result :=
  match s.platform.trapEntry with
  | none => .fault (.trap cause s.addr)
  | some e => enterTrap e cause s

/-! The shapes of a meaning. -/

/-- An instruction that reads registers: it is held, with no change of state, while one of them is pending
(R27), and otherwise goes on. -/
def hold (sources : List Reg) (s : State) (go : Result) : Result :=
  if sources.any s.pending then .next s else go

/-- An instruction that writes `v` to a register and updates the flags: a pending destination faults and
nothing is written (R28, R110 b); zr drops the result and keeps the flag update (R21). -/
def writeBack (rd : Reg) (v : Word) (flags : State → State) (s : State) : Result :=
  if s.pending rd then takeTrap (.pendingWrite rd) s
  else .next ((flags s).setReg rd v).advance

/-- A linking jump to `t` (R175 c, g): rp receives the return address, unless rp is pending. -/
def linkAndJump (t : Word) (s : State) : Result :=
  if s.pending .rp then takeTrap (.pendingWrite .rp) s
  else .next ((s.setReg .rp (s.addr + s.params.linkOffset)).jumpTo t)

/-! Return from a trap. -/

/-- The registers rfi reads. -/
def TrapReturn.sources (t : TrapReturn) : List Reg :=
  t.rpReload.elim [] TrapExpr.sources ++ t.writes.flatMap TrapWrite.sources

/-- The registers rfi writes. -/
def TrapReturn.targets (t : TrapReturn) : List Reg :=
  (t.rpReload.elim [] fun _ => [.rp]) ++ t.writes.flatMap TrapWrite.targets

/-- The effects of rfi (R292): `ip <- ira` and what the platform's record adds: the flags, the further writes, interrupts
enabled again, rp from memory. Values are computed in the state before, ira among them. Whether a reloaded rp arrives at
once or leaves rp pending like the register of a load is not stated either: the platform says it, by `reloadPends`
(notes/assumptions/32.md). Like an entry it is not the jump that lets a waiting TLB flush happen (36.md). -/
def completeReturn (r : TrapReturn) (s : State) : Except Refusal State := do
  let rp ← r.rpReload.mapM fun a => TrapExpr.value 0 s (.word a)
  let t ← applyWrites 0 s r.writes (if r.restoresFlags then s.setFlags s.savedFlags else s)
  let u := { t with masked := !r.unmasks && t.masked, draws := s.draws + 1 }
  return (match rp with
    | none => u
    | some v => if r.reloadPends then u.startLoad .rp v else u.setReg .rp v).setIp s.ira

/-- The return from a trap (R292). What it reads holds it while pending (R27), and a pending register it writes
faults (R28). It asks for no handler: outside one it runs in the same way, with whatever ira holds (R224 does not
describe that; notes/assumptions/32.md). -/
def returnFromTrap (r : TrapReturn) (s : State) : Result :=
  hold r.sources s
    (match r.targets.find? s.pending with
     | some rd => takeTrap (.pendingWrite rd) s
     | none => answer (completeReturn r s))

end Sys2Proof.Machine
end

