-- ==== Sys2Proof/Machine/Arith.lean ====
section
/-! DEFINITION. Arithmetic and comparison (40_arithmetic.md R110 to R118): each reads its sources, computes exactly,
and writes the destination with the flags of its class. -/

namespace Sys2Proof.Machine

/-- R111 add. -/
def execAdd (rd rs1 rs2 : Reg) (s : State) : Result :=
  let t := addWithCarry (s.reg rs1) (s.reg rs2) false
  hold [rs1, rs2] s (writeBack rd t.value (arithFlags t) s)

/-- R112 addc: flag c is read before it is written. -/
def execAddc (rd rs1 rs2 : Reg) (s : State) : Result :=
  let t := addWithCarry (s.reg rs1) (s.reg rs2) s.flags.c
  hold [rs1, rs2] s (writeBack rd t.value (arithFlags t) s)

/-- R113 sub: the first source minus the second. -/
def execSub (rd rs1 rs2 : Reg) (s : State) : Result :=
  let t := subWithCarry s.params (s.reg rs1) (s.reg rs2) true
  hold [rs1, rs2] s (writeBack rd t.value (arithFlags t) s)

/-- R114 subb: one more is subtracted when flag c is 0. -/
def execSubb (rd rs1 rs2 : Reg) (s : State) : Result :=
  let t := subWithCarry s.params (s.reg rs1) (s.reg rs2) s.flags.c
  hold [rs1, rs2] s (writeBack rd t.value (arithFlags t) s)

/-- R115 addi. The W register is read first, so a pending one holds and the write finds it resolved (R28). -/
def execAddi (rw : Reg) (imm : BitVec 8) (s : State) : Result :=
  let t := addWithCarry (s.reg rw) (sext8 imm) false
  hold [rw] s (writeBack rw t.value (arithFlags t) s)

/-- R116 cmpi: flags only, no register is written. -/
def execCmpi (rs : Reg) (imm : BitVec 8) (s : State) : Result :=
  let t := subWithCarry s.params (s.reg rs) (sext8 imm) true
  hold [rs] s (writeBack .zr t.value (arithFlags t) s)

/-- R117 slt: 1 or 0 by the signed comparison, class FU. -/
def execSlt (rd rs1 rs2 : Reg) (s : State) : Result :=
  let v := boolWord (signedLess s.params (s.reg rs1) (s.reg rs2))
  hold [rs1, rs2] s (writeBack rd v (freeFlags v) s)

/-- R118 sltu: 1 or 0 by the unsigned comparison, class FU. -/
def execSltu (rd rs1 rs2 : Reg) (s : State) : Result :=
  let v := boolWord (unsignedLess (s.reg rs1) (s.reg rs2))
  hold [rs1, rs2] s (writeBack rd v (freeFlags v) s)

end Sys2Proof.Machine
end

