-- ==== Sys2Proof/Machine/Jump.lean ====
section
/-! DEFINITION. Jumps, the branch and instruction prefetch (44_jump_branch.md R175 to R186). None writes fl (R175 e);
there are no delay slots (R175 f). -/

namespace Sys2Proof.Machine

/-- R176 jmp. -/
def execJmp (imm : BitVec 11) (s : State) : Result := .next (s.jumpTo (absTarget imm))

/-- R177 jmpl. -/
def execJmpl (imm : BitVec 11) (s : State) : Result := linkAndJump (absTarget imm) s

/-- R179 jmpr. -/
def execJmpr (imm : BitVec 11) (s : State) : Result := .next (s.jumpTo (relTarget11 s.params s.addr imm))

/-- R180 jmprl. -/
def execJmprl (imm : BitVec 11) (s : State) : Result := linkAndJump (relTarget11 s.params s.addr imm) s

/-- R181 jmpd, with F = 0. Bit 0 of the register is dropped (R182). -/
def execJmpd (rs : Reg) (s : State) : Result := hold [rs] s (.next (s.jumpTo (s.reg rs)))

/-- R183 jmpdl, with F = 0: the target is read before rp is written. -/
def execJmpdl (rs : Reg) (s : State) : Result := hold [rs] s (linkAndJump (s.reg rs) s)

/-- The condition of brh holds (R35). -/
def holds (cond : Cond) (f : Flags) : Bool :=
  match cond with
  | .c => f.c
  | .s => f.s
  | .z => f.z
  | .nc => !f.c
  | .ns => !f.s
  | .nz => !f.z

/-- R184 brh. -/
def execBrh (cond : Cond) (imm : BitVec 8) (s : State) : Result :=
  if holds cond s.flags then .next (s.jumpTo (relTarget8 s.params s.addr imm)) else .next s.advance

/-- R186 prfi: a hint, `ip <- A + 2` and nothing else. -/
def execPrfi (_imm : BitVec 11) (s : State) : Result := .next s.advance

end Sys2Proof.Machine
end

