-- ==== Sys2Proof/Machine/LoadImmediate.lean ====
section
/-! DEFINITION. Load immediate (43_load_immediate.md R170, R171). The register is a destination only, so a pending
one faults and is not waited for. -/

namespace Sys2Proof.Machine

/-- R170 lli. -/
def execLli (rd : Reg) (imm : BitVec 8) (s : State) : Result := writeBack rd (sext8 imm) (freeFlags (sext8 imm)) s

/-- R171 lui. -/
def execLui (rd : Reg) (imm : BitVec 8) (s : State) : Result := writeBack rd (upper8 imm) (freeFlags (upper8 imm)) s

end Sys2Proof.Machine
end

