-- ==== Sys2Proof/Machine/Logic.lean ====
section
/-! DEFINITION. Select and bitwise logic (41_logic.md R130 to R141). -/

namespace Sys2Proof.Machine

/-- R131 szr: the first source goes to rd if the second is 0, or the other way round as SZR_ROLES says; otherwise
nothing is written and a pending rd does not fault (D15). Class FU either way, with the value as the result. -/
def execSzr (rd rs1 rs2 : Reg) (s : State) : Result :=
  let (value, tested) := match s.params.szrRoles with
    | .firstIsValue => (s.reg rs1, s.reg rs2)
    | .secondIsValue => (s.reg rs2, s.reg rs1)
  hold [rs1, rs2] s
    (if tested = 0 then writeBack rd value (freeFlags value) s else .next (freeFlags value s).advance)

/-- R132 ior. -/
def execIor (rd rs1 rs2 : Reg) (s : State) : Result :=
  let v := s.reg rs1 ||| s.reg rs2
  hold [rs1, rs2] s (writeBack rd v (logicFlags v) s)

/-- R133 and. -/
def execAnd (rd rs1 rs2 : Reg) (s : State) : Result :=
  let v := s.reg rs1 &&& s.reg rs2
  hold [rs1, rs2] s (writeBack rd v (logicFlags v) s)

/-- R134 xor. -/
def execXor (rd rs1 rs2 : Reg) (s : State) : Result :=
  let v := s.reg rs1 ^^^ s.reg rs2
  hold [rs1, rs2] s (writeBack rd v (logicFlags v) s)

/-- R135 iori. -/
def execIori (rw : Reg) (imm : BitVec 8) (s : State) : Result :=
  let v := s.reg rw ||| sext8 imm
  hold [rw] s (writeBack rw v (logicFlags v) s)

/-- R136 ioriu. -/
def execIoriu (rw : Reg) (imm : BitVec 8) (s : State) : Result :=
  let v := s.reg rw ||| zext8 imm
  hold [rw] s (writeBack rw v (logicFlags v) s)

/-- R137 andi. -/
def execAndi (rw : Reg) (imm : BitVec 8) (s : State) : Result :=
  let v := s.reg rw &&& sext8 imm
  hold [rw] s (writeBack rw v (logicFlags v) s)

/-- R138 andiu. -/
def execAndiu (rw : Reg) (imm : BitVec 8) (s : State) : Result :=
  let v := s.reg rw &&& zext8 imm
  hold [rw] s (writeBack rw v (logicFlags v) s)

/-- R139 biti: flags only. -/
def execBiti (rs : Reg) (imm : BitVec 8) (s : State) : Result :=
  let v := s.reg rs &&& zext8 imm
  hold [rs] s (writeBack .zr v (logicFlags v) s)

/-- R140 xori. -/
def execXori (rw : Reg) (imm : BitVec 8) (s : State) : Result :=
  let v := s.reg rw ^^^ sext8 imm
  hold [rw] s (writeBack rw v (logicFlags v) s)

/-- R141 xoriu. -/
def execXoriu (rw : Reg) (imm : BitVec 8) (s : State) : Result :=
  let v := s.reg rw ^^^ zext8 imm
  hold [rw] s (writeBack rw v (logicFlags v) s)

end Sys2Proof.Machine
end

