-- ==== Sys2Proof/Machine/MemAccess.lean ====
section
/-! DEFINITION. Loads, stores and exchanges (45_memory_access.md R195 to R202). A load fixes its value and leaves its
register pending; the register receives it at a later event (R29). None writes fl. -/

namespace Sys2Proof.Machine

/-- One free value may have been drawn by a load (R62, MEM_ORDER `fenced`). -/
def State.loadDrawn (s : State) : State :=
  { s with draws := if s.params.memOrder = .fenced then s.draws + 1 else s.draws }

/-- A load whose access to memory gives `m` (R196, R197): to zr it is a prefetch with no effect (R65); otherwise a
pending destination faults before anything else (R195 c). -/
def load (rd : Reg) (m : Except Refusal Word) (s : State) : Result :=
  if rd = .zr then .next s.advance
  else if s.pending rd then takeTrap (.pendingWrite rd) s
  else match m with
    | .error r => .refused r
    | .ok v => .next (s.loadDrawn.startLoad rd v).advance

/-- The end of a store whose memory access answered `m` (R198, R199). -/
def afterStore (m : Except Refusal State) : Result :=
  match m with
  | .error r => .refused r
  | .ok s => .next s.advance

/-- The end of an exchange, given the old memory value and the store: the W register, unless it is zr, becomes
pending with the old memory value (R200, R201). -/
def afterExchange (rw : Reg) (old : Except Refusal Word) (m : Except Refusal State) : Result :=
  match old, m with
  | .ok v, .ok s => .next (s.loadDrawn.startLoad rw v).advance
  | .error r, _ | _, .error r => .refused r

/-- R196 mld: the byte is sign-extended. -/
def execMld (rd base : Reg) (imm : BitVec 5) (s : State) : Result :=
  hold [base] s (load rd (do return sextByte (← loadByte (← s.effective (s.reg base) (byteOffset imm)) s)) s)

/-- R197 mldw: an odd address has no step (R57). -/
def execMldw (rd base : Reg) (imm : BitVec 5) (s : State) : Result :=
  hold [base] s (load rd (do loadWord (← s.effective (s.reg base) (wordOffset imm)) s) s)

/-- R198 mst: bits 7:0 of the data register are stored. -/
def execMst (rs base : Reg) (imm : BitVec 5) (s : State) : Result :=
  hold [base, rs] s
    (afterStore (do storeByte (← s.effective (s.reg base) (byteOffset imm)) (storedByte s.params (s.reg rs)) s))

/-- R199 mstw. -/
def execMstw (rs base : Reg) (imm : BitVec 5) (s : State) : Result :=
  hold [base, rs] s (afterStore (do storeWord (← s.effective (s.reg base) (wordOffset imm)) (s.reg rs) s))

/-- R200 xch: the register receives the byte that was in memory before the store, sign-extended. -/
def execXch (rw base : Reg) (imm : BitVec 5) (s : State) : Result :=
  let ea := s.effective (s.reg base) (byteOffset imm)
  hold [base, rw] s
    (afterExchange rw (do return sextByte (← loadByte (← ea) s))
      (do storeByte (← ea) (storedByte s.params (s.reg rw)) s))

/-- R201 xchw. -/
def execXchw (rw base : Reg) (imm : BitVec 5) (s : State) : Result :=
  let ea := s.effective (s.reg base) (wordOffset imm)
  hold [base, rw] s (afterExchange rw (do loadWord (← ea) s) (do storeWord (← ea) (s.reg rw) s))

end Sys2Proof.Machine
end

