-- ==== Sys2Proof/Machine/System.lean ====
section
/-! DEFINITION. CSR access and the control encodings (46_system.md R215 to R227). A control encoding replaces its
base instruction entirely (R215). The machine has one mode, in which every instruction is allowed (R294). -/

namespace Sys2Proof.Machine

/-- CSR_MAP(csr) (R36, R301): the name bound to a number, if any. -/
def csrNamed (bindings : List (BitVec 6 × Csr)) (csr : BitVec 6) : Option Csr :=
  match bindings with
  | [] => none
  | (k, name) :: rest => if k = csr then some name else csrNamed rest csr

/-- `read(name)` (R216): ip reads A + 2, fl its flags with a free bit 3, ira the interrupt return address. What
pen and the other CSRs read as is not stated: a free value. -/
def readCsr (name : Csr) (csr : BitVec 6) (s : State) : Word :=
  match name with
  | .ip => s.addr + s.params.ipRelBase
  | .fl => flagsWord s.params.flLayout s.flags s.nextDraw
  | .ira => s.ira
  | .pen => s.nextDraw
  | .interruptInterface | .vmConfig | .readOnly => Config.csrValue s.draws csr (s.csrWord csr)

/-- The draw a read of a CSR makes: none where its value is stated (R216). -/
def csrDraw (name : Csr) (s : State) : State :=
  match name with
  | .ip | .ira => s
  | .fl | .pen | .interruptInterface | .vmConfig | .readOnly => s.drawn

/-- `write(name, v)` (R217). A write of 0 to pen clears the pending interrupt state (R287); a write to fl sets c, s and
z; an interrupt interface register takes the value ("csr = rs"). Writes to ip, ira, a read-only register and of another
value to pen are not described and refused (D41). That a write to a bound virtual memory configuration register is
refused too is this model's choice (R66; notes/assumptions/29.md). -/
def writeCsr (name : Csr) (csr : BitVec 6) (v : Word) (s : State) : Except Refusal State :=
  match name with
  | .fl => .ok (s.setFlags (flagsOfWord s.params.flLayout v))
  | .pen => if v = 0 then .ok { s with pen := false } else .error .unspecifiedCsrWrite
  | .interruptInterface => .ok (s.setCsrWord csr v)
  | .ip | .ira | .vmConfig | .readOnly => .error .unspecifiedCsrWrite

/-- csrr of the CSR bound to a number (R216). -/
def csrRead (rd : Reg) (csr : BitVec 6) (s : State) : Result :=
  match csrNamed s.platform.csrMap csr with
  | none => .refused .unboundCsr
  | some name => writeBack rd (readCsr name csr s) (csrDraw name) s

/-- csrw of the CSR bound to a number (R217). -/
def csrWrite (rs : Reg) (csr : BitVec 6) (s : State) : Result :=
  match csrNamed s.platform.csrMap csr with
  | none => .refused .unboundCsr
  | some name =>
    hold [rs] s
      (match writeCsr name csr (s.reg rs) s with
       | .error r => .refused r
       | .ok t => .next t.advance)

/-- R216 csrr. -/
def execCsrr (rd : Reg) (csr : BitVec 6) (s : State) : Result := csrRead rd csr s

/-- R217 csrw. -/
def execCsrw (rs : Reg) (csr : BitVec 6) (s : State) : Result := csrWrite rs csr s

/-- R218 bkpt: raises Breakpoint. -/
def execBkpt (s : State) : Result := takeTrap .breakpoint s

/-- R219 nop: no flags are written. -/
def execNop (s : State) : Result := .next s.advance

/-- R220 sysc: raises SystemCall(x). -/
def execSysc (x : BitVec 8) (s : State) : Result := takeTrap (.systemCall x) s

/-- R222 fence: held while any register is pending. Every earlier store is in memory already (R62), and after the
fence none is outstanding (R63). -/
def execFence (s : State) : Result := if s.anyPending then .next s else .next { s with unfenced := [] }.advance

/-- R223 ftlb: the flush waits for the next taken jump. -/
def execFtlb (s : State) : Result := .next { s with flushPending := true }.advance

/-- R224 rfi: TRAP_RETURN; refused without one. -/
def execRfi (s : State) : Result :=
  match s.platform.trapReturn with
  | none => .refused .noTrapReturn
  | some t => returnFromTrap t s

/-- R225 wfi: goes on when an interrupt is pending; else it is held if one can arrive, and with no
INTERRUPT_SOURCE the run ends as Sleeping (R293). -/
def execWfi (s : State) : Result :=
  if s.pen then .next s.advance
  else if s.platform.interruptSource then .next s
  else .fault (.sleeping s.addr)

/-- R226 scf. -/
def execScf (s : State) : Result := .next (carryFlag true s).advance

/-- R227 rscf. -/
def execRscf (s : State) : Result := .next (carryFlag false s).advance

end Sys2Proof.Machine
end

