-- ==== Sys2Proof/Machine/Pseudo.lean ====
section
/-! DEFINITION. The pure pseudo-instructions (47_pseudo_and_directives.md R240 to R262). Each behaves by its base
instruction's rule with some operands fixed, flags, holds and faults included (R240). -/

namespace Sys2Proof.Machine

/-- R241 mov, `add rd, rs, zr`. -/
def execMov (rd rs : Reg) (s : State) : Result :=
  let t := addWithCarry (s.reg rs) 0 false
  hold [rs] s (writeBack rd t.value (arithFlags t) s)

/-- R242 test, `add zr, rs, zr`. -/
def execTest (rs : Reg) (s : State) : Result :=
  let t := addWithCarry (s.reg rs) 0 false
  hold [rs] s (writeBack .zr t.value (arithFlags t) s)

/-- R243 neg, `sub rd, zr, rs`. -/
def execNeg (rd rs : Reg) (s : State) : Result :=
  let t := subWithCarry s.params 0 (s.reg rs) true
  hold [rs] s (writeBack rd t.value (arithFlags t) s)

/-- R244 cmp, `sub zr, rs1, rs2`. -/
def execCmp (rs1 rs2 : Reg) (s : State) : Result :=
  let t := subWithCarry s.params (s.reg rs1) (s.reg rs2) true
  hold [rs1, rs2] s (writeBack .zr t.value (arithFlags t) s)

/-- R245 inc, `addi rw, 1`. -/
def execInc (rw : Reg) (s : State) : Result :=
  let t := addWithCarry (s.reg rw) 1 false
  hold [rw] s (writeBack rw t.value (arithFlags t) s)

/-- R246 dec, `addi rw, -1`. -/
def execDec (rw : Reg) (s : State) : Result :=
  let t := addWithCarry (s.reg rw) 0xFFFF false
  hold [rw] s (writeBack rw t.value (arithFlags t) s)

/-- R247 alloc, `addi sp, imm`. -/
def execAlloc (imm : BitVec 8) (s : State) : Result :=
  let t := addWithCarry (s.reg .sp) (sext8 imm) false
  hold [.sp] s (writeBack .sp t.value (arithFlags t) s)

/-- R248 ip, `csrr rd, csr` with the number the platform binds to ip. -/
def execIp (rd : Reg) (csr : BitVec 6) (s : State) : Result := csrRead rd csr s

/-- R249 clri, `csrw zr, csr` with the number the platform binds to pen. -/
def execClri (csr : BitVec 6) (s : State) : Result := csrWrite .zr csr s

/-- R250 sneg, `slt rd, rs, zr`. -/
def execSneg (rd rs : Reg) (s : State) : Result :=
  let v := boolWord (signedLess s.params (s.reg rs) 0)
  hold [rs] s (writeBack rd v (freeFlags v) s)

/-- R251 spos, `slt rd, zr, rs`. -/
def execSpos (rd rs : Reg) (s : State) : Result :=
  let v := boolWord (signedLess s.params 0 (s.reg rs))
  hold [rs] s (writeBack rd v (freeFlags v) s)

/-- R252 snez, `sltu rd, zr, rs`. -/
def execSnez (rd rs : Reg) (s : State) : Result :=
  let v := boolWord (unsignedLess 0 (s.reg rs))
  hold [rs] s (writeBack rd v (freeFlags v) s)

/-- R253 cut4, `andiu rw, 0x0F`. -/
def execCut4 (rw : Reg) (s : State) : Result :=
  let v := s.reg rw &&& 0x000F
  hold [rw] s (writeBack rw v (logicFlags v) s)

/-- R254 cut8, `andiu rw, 0xFF`. -/
def execCut8 (rw : Reg) (s : State) : Result :=
  let v := s.reg rw &&& 0x00FF
  hold [rw] s (writeBack rw v (logicFlags v) s)

/-- R255 clrl, `andiu rw, 0`: the whole register becomes 0 (90_conflicts.md C5). -/
def execClrl (rw : Reg) (s : State) : Result :=
  let v := s.reg rw &&& 0x0000
  hold [rw] s (writeBack rw v (logicFlags v) s)

/-- R256 not, `xori rw, -1`. -/
def execNot (rw : Reg) (s : State) : Result :=
  let v := s.reg rw ^^^ 0xFFFF
  hold [rw] s (writeBack rw v (logicFlags v) s)

/-- R257 not8, `xoriu rw, 0xFF`. -/
def execNot8 (rw : Reg) (s : State) : Result :=
  let v := s.reg rw ^^^ 0x00FF
  hold [rw] s (writeBack rw v (logicFlags v) s)

/-- R258 clr, `lui rd, 0`: a pending register faults. -/
def execClr (rd : Reg) (s : State) : Result := writeBack rd 0 (freeFlags 0) s

/-- R259 ret, `jmpd rp`. -/
def execRet (s : State) : Result := hold [.rp] s (.next (s.jumpTo (s.reg .rp)))

/-- R260 prfd, `mldw zr, base, imm`: no effect but the hold on the base register. -/
def execPrfd (base : Reg) (_imm : BitVec 5) (s : State) : Result := hold [base] s (.next s.advance)

/-- R261 mclr, `mst zr, base, imm`. -/
def execMclr (base : Reg) (imm : BitVec 5) (s : State) : Result :=
  hold [base] s (afterStore (do storeByte (← s.effective (s.reg base) (byteOffset imm)) 0 s))

/-- R262 mclrw, `mstw zr, base, imm`. -/
def execMclrw (base : Reg) (imm : BitVec 5) (s : State) : Result :=
  hold [base] s (afterStore (do storeWord (← s.effective (s.reg base) (wordOffset imm)) 0 s))

end Sys2Proof.Machine
end

