-- ==== Sys2Proof/Machine/Reserved.lean ====
section
/-! DEFINITION. The reserved rows: the source gives them a pattern and no effect, and the model has no step for them
(30_encoding.md R100 to R103, R228). -/

namespace Sys2Proof.Machine

/-- R102, R228: `jmpdl 0, 64`. -/
def execReservedB840 (_s : State) : Result := .refused .reservedControlFlag

/-- R102, R228: `jmpdl 0, 128`. -/
def execReservedB880 (_s : State) : Result := .refused .reservedControlFlag

/-- R101: opcode 01111. -/
def execReserved01111 (_rd : Reg) (_fn : BitVec 2) (_rs1 _rs2 : Reg) (_s : State) : Result :=
  .refused .reservedOpcode

/-- R103: brh with condition 011. -/
def execReservedBrhCond011 (_imm : BitVec 8) (_s : State) : Result := .refused .reservedCondition

/-- R103: brh with condition 111. -/
def execReservedBrhCond111 (_imm : BitVec 8) (_s : State) : Result := .refused .reservedCondition

end Sys2Proof.Machine
end

