-- ==== Sys2Proof/Machine/Shift.lean ====
section
/-! DEFINITION. Barrel shifts and rotates (42_shift.md R150 to R160), all of class FU (R151). -/

namespace Sys2Proof.Machine

/-- R153 bsl. -/
def execBsl (rd rs : Reg) (amt : BitVec 4) (s : State) : Result :=
  let v := shiftLeft (s.reg rs) amt.toNat
  hold [rs] s (writeBack rd v (freeFlags v) s)

/-- R154 bsr. -/
def execBsr (rd rs : Reg) (amt : BitVec 4) (s : State) : Result :=
  let v := shiftRight (s.reg rs) amt.toNat
  hold [rs] s (writeBack rd v (freeFlags v) s)

/-- R155 bsrs. -/
def execBsrs (rd rs : Reg) (amt : BitVec 4) (s : State) : Result :=
  let v := shiftRightSigned (s.reg rs) amt.toNat
  hold [rs] s (writeBack rd v (freeFlags v) s)

/-- R156 brr. -/
def execBrr (rd rs : Reg) (amt : BitVec 4) (s : State) : Result :=
  let v := rotateRight (s.reg rs) amt.toNat
  hold [rs] s (writeBack rd v (freeFlags v) s)

/-- R157 bsld: rs1 the value, rs2 the amount. -/
def execBsld (rd rs1 rs2 : Reg) (s : State) : Result :=
  let v := shiftLeft (s.reg rs1) (regAmount s.params (s.reg rs2))
  hold [rs1, rs2] s (writeBack rd v (freeFlags v) s)

/-- R158 bsrd. -/
def execBsrd (rd rs1 rs2 : Reg) (s : State) : Result :=
  let v := shiftRight (s.reg rs1) (regAmount s.params (s.reg rs2))
  hold [rs1, rs2] s (writeBack rd v (freeFlags v) s)

/-- R159 bsrsd. -/
def execBsrsd (rd rs1 rs2 : Reg) (s : State) : Result :=
  let v := shiftRightSigned (s.reg rs1) (regAmount s.params (s.reg rs2))
  hold [rs1, rs2] s (writeBack rd v (freeFlags v) s)

/-- R160 brrd. -/
def execBrrd (rd rs1 rs2 : Reg) (s : State) : Result :=
  let v := rotateRight (s.reg rs1) (regAmount s.params (s.reg rs2))
  hold [rs1, rs2] s (writeBack rd v (freeFlags v) s)

end Sys2Proof.Machine
end

