-- ==== Sys2Proof/Machine/Dispatch.lean ====
section
/-! DEFINITION. The dispatch: one arm for each constructor of Instr. -/

namespace Sys2Proof.Machine

def exec (i : Instr) (s : State) : Host.Outcome State Fault Refusal :=
  match i with
  | .add rd rs1 rs2 => Sys2Proof.Machine.execAdd rd rs1 rs2 s
  | .addc rd rs1 rs2 => Sys2Proof.Machine.execAddc rd rs1 rs2 s
  | .sub rd rs1 rs2 => Sys2Proof.Machine.execSub rd rs1 rs2 s
  | .subb rd rs1 rs2 => Sys2Proof.Machine.execSubb rd rs1 rs2 s
  | .slt rd rs1 rs2 => Sys2Proof.Machine.execSlt rd rs1 rs2 s
  | .sltu rd rs1 rs2 => Sys2Proof.Machine.execSltu rd rs1 rs2 s
  | .szr rd rs1 rs2 => Sys2Proof.Machine.execSzr rd rs1 rs2 s
  | .ior rd rs1 rs2 => Sys2Proof.Machine.execIor rd rs1 rs2 s
  | .and rd rs1 rs2 => Sys2Proof.Machine.execAnd rd rs1 rs2 s
  | .xor rd rs1 rs2 => Sys2Proof.Machine.execXor rd rs1 rs2 s
  | .addi rw imm => Sys2Proof.Machine.execAddi rw imm s
  | .cmpi rs imm => Sys2Proof.Machine.execCmpi rs imm s
  | .iori rw imm => Sys2Proof.Machine.execIori rw imm s
  | .ioriu rw imm => Sys2Proof.Machine.execIoriu rw imm s
  | .andi rw imm => Sys2Proof.Machine.execAndi rw imm s
  | .andiu rw imm => Sys2Proof.Machine.execAndiu rw imm s
  | .biti rs imm => Sys2Proof.Machine.execBiti rs imm s
  | .xori rw imm => Sys2Proof.Machine.execXori rw imm s
  | .xoriu rw imm => Sys2Proof.Machine.execXoriu rw imm s
  | .lli rd imm => Sys2Proof.Machine.execLli rd imm s
  | .lui rd imm => Sys2Proof.Machine.execLui rd imm s
  | .bsl rd rs amt => Sys2Proof.Machine.execBsl rd rs amt s
  | .bsr rd rs amt => Sys2Proof.Machine.execBsr rd rs amt s
  | .bsrs rd rs amt => Sys2Proof.Machine.execBsrs rd rs amt s
  | .brr rd rs amt => Sys2Proof.Machine.execBrr rd rs amt s
  | .bsld rd rs1 rs2 => Sys2Proof.Machine.execBsld rd rs1 rs2 s
  | .bsrd rd rs1 rs2 => Sys2Proof.Machine.execBsrd rd rs1 rs2 s
  | .bsrsd rd rs1 rs2 => Sys2Proof.Machine.execBsrsd rd rs1 rs2 s
  | .brrd rd rs1 rs2 => Sys2Proof.Machine.execBrrd rd rs1 rs2 s
  | .jmp imm => Sys2Proof.Machine.execJmp imm s
  | .jmpl imm => Sys2Proof.Machine.execJmpl imm s
  | .jmpr imm => Sys2Proof.Machine.execJmpr imm s
  | .jmprl imm => Sys2Proof.Machine.execJmprl imm s
  | .jmpd rs => Sys2Proof.Machine.execJmpd rs s
  | .jmpdl rs => Sys2Proof.Machine.execJmpdl rs s
  | .brh cond imm => Sys2Proof.Machine.execBrh cond imm s
  | .prfi imm => Sys2Proof.Machine.execPrfi imm s
  | .mld rd base imm => Sys2Proof.Machine.execMld rd base imm s
  | .mldw rd base imm => Sys2Proof.Machine.execMldw rd base imm s
  | .mst rs base imm => Sys2Proof.Machine.execMst rs base imm s
  | .mstw rs base imm => Sys2Proof.Machine.execMstw rs base imm s
  | .xch rw base imm => Sys2Proof.Machine.execXch rw base imm s
  | .xchw rw base imm => Sys2Proof.Machine.execXchw rw base imm s
  | .csrr rd csr => Sys2Proof.Machine.execCsrr rd csr s
  | .csrw rs csr => Sys2Proof.Machine.execCsrw rs csr s
  | .bkpt => Sys2Proof.Machine.execBkpt s
  | .nop => Sys2Proof.Machine.execNop s
  | .sysc x => Sys2Proof.Machine.execSysc x s
  | .fence => Sys2Proof.Machine.execFence s
  | .ftlb => Sys2Proof.Machine.execFtlb s
  | .rfi => Sys2Proof.Machine.execRfi s
  | .wfi => Sys2Proof.Machine.execWfi s
  | .scf => Sys2Proof.Machine.execScf s
  | .rscf => Sys2Proof.Machine.execRscf s
  | .reservedB840 => Sys2Proof.Machine.execReservedB840 s
  | .reservedB880 => Sys2Proof.Machine.execReservedB880 s
  | .reserved01111 rd fn rs1 rs2 => Sys2Proof.Machine.execReserved01111 rd fn rs1 rs2 s
  | .reservedBrhCond011 imm => Sys2Proof.Machine.execReservedBrhCond011 imm s
  | .reservedBrhCond111 imm => Sys2Proof.Machine.execReservedBrhCond111 imm s
  | .mov rd rs => Sys2Proof.Machine.execMov rd rs s
  | .test rs => Sys2Proof.Machine.execTest rs s
  | .neg rd rs => Sys2Proof.Machine.execNeg rd rs s
  | .cmp rs1 rs2 => Sys2Proof.Machine.execCmp rs1 rs2 s
  | .inc rw => Sys2Proof.Machine.execInc rw s
  | .dec rw => Sys2Proof.Machine.execDec rw s
  | .alloc imm => Sys2Proof.Machine.execAlloc imm s
  | .ip rd csr => Sys2Proof.Machine.execIp rd csr s
  | .clri csr => Sys2Proof.Machine.execClri csr s
  | .sneg rd rs => Sys2Proof.Machine.execSneg rd rs s
  | .spos rd rs => Sys2Proof.Machine.execSpos rd rs s
  | .snez rd rs => Sys2Proof.Machine.execSnez rd rs s
  | .cut4 rw => Sys2Proof.Machine.execCut4 rw s
  | .cut8 rw => Sys2Proof.Machine.execCut8 rw s
  | .clrl rw => Sys2Proof.Machine.execClrl rw s
  | .not rw => Sys2Proof.Machine.execNot rw s
  | .not8 rw => Sys2Proof.Machine.execNot8 rw s
  | .clr rd => Sys2Proof.Machine.execClr rd s
  | .ret => Sys2Proof.Machine.execRet s
  | .prfd base imm => Sys2Proof.Machine.execPrfd base imm s
  | .mclr base imm => Sys2Proof.Machine.execMclr base imm s
  | .mclrw base imm => Sys2Proof.Machine.execMclrw base imm s

end Sys2Proof.Machine
end

