-- ==== Sys2Proof/Machine/Fetch.lean ====
section
/-! DEFINITION. Instruction fetch (20_memory.md R54, R56) and the events between instructions (10_state.md R29,
60_exceptions.md R286). -/

namespace Sys2Proof.Machine

/-- The byte a fetch reads: from memory, or from the separate instruction memory (R7, MEM_UNIFIED). It is what the
memory holds now: a fetch sees every earlier store at once. Bytes of the program image never change; for other bytes R64
does not say whether a fetch sees a store, and that it does is this model's choice (notes/assumptions/25.md). -/
def State.fetchByte (s : State) (a : Word) : Byte := if s.params.memUnified then s.readByte a else s.readCodeByte a

/-- The bytes of a fetched word as the decoder takes them, bits 7:0 first, from the two bytes as they lie in memory, the
lower address first (R8, R54): INSN_BYTE_ORDER and PATTERN_MSB_FIRST say how. -/
def arrangeBytes (p : Params) (b0 b1 : Byte) : List Byte :=
  let (lo, hi) := match p.insnByteOrder with
    | .little => (b0, b1)
    | .big => (b1, b0)
  if p.patternMsbFirst then [lo, hi] else [hi.reverse, lo.reverse]

/-- The two bytes at ip, for the decoder (R30, R54). -/
def State.fetchBytes (s : State) : Except Refusal (List Byte) :=
  match s.translate s.addr, s.translate (s.addr + 1) with
  | some p, some q => .ok (arrangeBytes s.params (s.fetchByte p) (s.fetchByte q))
  | _, _ => .error .translationFault

/-- The refusal of a word the decoder rejects (R102, R104). -/
def rejection : Reject → Refusal
  | .reservedControlFlag => .reservedControlFlag
  | .unspecifiedJumpFlags => .unspecifiedJumpFlags
  | .truncated => .truncatedFetch

/-- The instruction at ip, or why there is none. -/
def State.fetched (s : State) : Except Refusal Instr :=
  match s.fetchBytes with
  | .error e => .error e
  | .ok bytes => match decodeBytes bytes with
    | .ok (i, _) => .ok i
    | .error e => .error (rejection e)

/-- No event can occur: nothing is pending and the platform has no interrupt source (R286). -/
def State.quiet (s : State) : Bool := !s.anyPending && !s.platform.interruptSource

/-- The next event: the head of the state's own list, past its end a free value (R29, R286). -/
def State.nextEvent (s : State) : Event :=
  match s.inputs with
  | e :: _ => e
  | [] => Config.event s.clock

/-- One step is counted and its event leaves the list. -/
def State.tick (s : State) : State := { s with inputs := s.inputs.tail, clock := s.clock + 1 }

/-- An interrupt request arrives: an interrupt is pending (R287). -/
def State.requestInterrupt (s : State) : State := { s with pen := true }

/-- A byte placed where a fetch reads it. -/
def State.placeFetchByte (a : Word) (v : Byte) (s : State) : State :=
  if s.params.memUnified then s.writeByte a v else s.writeCodeByte a v

/-- An instruction word placed in the two bytes at ip as the fetch reads them, these two addresses translated to
themselves, no trap entry waiting, and the instruction taken up as the next event. -/
def placeFetchWord (w : Word) (s : State) : State :=
  let bytes := arrangeBytes s.params (w.extractLsb' 0 8) (w.extractLsb' 8 8)
  let vm := s.platform.vm.filter fun entry => decide (entry.1 ≠ s.addr ∧ entry.1 ≠ s.addr + 1)
  { (s.placeFetchByte s.addr (bytes.getD 0 0)).placeFetchByte (s.addr + 1) (bytes.getD 1 0) with
    platform := { s.platform with vm := vm }, entering := none, inputs := .run :: s.inputs }

end Sys2Proof.Machine
end

