-- ==== Sys2Proof/Machine/Step.lean ====
section
/-! DEFINITION. One step of the machine: an instruction (or its hold), or an event from outside the
instruction stream (R29, R286). -/

namespace Sys2Proof.Machine

/-- The instruction at ip is fetched, decoded and executed. A word the decoder rejects has no step. -/
def runInstruction (s : State) : Result :=
  match s.fetched with
  | .ok i => Sys2Proof.Machine.exec i s
  | .error e => .refused e

/-- What the machine does between events: a trap entry that waits is gone on with (R289, R291), and otherwise the
instruction at ip runs. -/
def proceed (s : State) : Result :=
  match s.entering with
  | some cause => takeTrap cause s
  | none => runInstruction s

/-- One step. While nothing is pending and the platform has no interrupt source, no event can occur and the machine
proceeds. Otherwise the next event decides: a load arrives (R29), a request arrives, a pending interrupt is taken where
interrupts are not masked and no other trap entry waits (R286, R289, D42), or the machine proceeds. An event that cannot
occur in the state gives way to proceeding. Between two tries of an instruction held on a pending register an interrupt
can be taken, with ira the held instruction: R27 does not say, and it is this model's choice
(notes/assumptions/33.md). -/
def step (s : State) : Host.Outcome State Fault Refusal :=
  let t := s.tick
  if s.quiet then proceed t
  else match s.nextEvent with
    | .run => proceed t
    | .resolve r => if s.pending r then .next (t.resolve r) else proceed t
    | .arrive => if s.platform.interruptSource then .next t.requestInterrupt else proceed t
    | .take =>
      if s.platform.interruptSource && s.pen && !s.masked && s.entering.isNone then takeTrap .interrupt t else proceed t

/-- The instruction word `w` stored where `step` fetches its next instruction, with the event that takes the
instruction up next. -/
def State.withFetchWord (s : State) (nbits w : Nat) : State :=
  placeFetchWord (BitVec.ofNat 16 (w % 2 ^ nbits)) s

end Sys2Proof.Machine
end

