-- ==== Sys2Proof/Machine/Image.lean ====
section
/-! DEFINITION. The data directives (47_pseudo_and_directives.md R266 to R276) and the load of an image by the
platform (10_state.md R38). A value is a number here; a symbol reference stands for its number. -/

namespace Sys2Proof.Machine

/-- The ten data directives (R267 to R276); the item of a `reserve` is one of the eight typed ones, by size. -/
inductive Directive where
  | u8 (v : Nat)
  | u16 (v : Nat)
  | u24 (v : Nat)
  | u32 (v : Nat)
  | i8 (v : Int)
  | i16 (v : Int)
  | i24 (v : Int)
  | i32 (v : Int)
  | reserve (itemBytes : Nat) (amt : Option Nat)
  | ascii (text : List Char) (sen : Option Byte)
deriving DecidableEq, Repr

/-- `n` bytes of a number, the least significant first (R266, D31). -/
def bytesOf : Nat → Nat → List Byte
  | 0, _ => []
  | n + 1, v => BitVec.ofNat 8 v :: bytesOf n (v / 256)

/-- The bytes of an unsigned value, where it fits (R267 to R270). -/
def unsignedBytes (n v : Nat) : Option (List (Option Byte)) :=
  if v < 256 ^ n then some ((bytesOf n v).map some) else none

/-- The bytes of a two's complement value, where it fits (R271 to R274). -/
def signedBytes (n : Nat) (v : Int) : Option (List (Option Byte)) :=
  if -(256 ^ n : Int) ≤ 2 * v ∧ 2 * v < (256 ^ n : Int) then
    some ((bytesOf n (v % (256 ^ n : Int)).toNat).map some)
  else none

/-- The ASCII code of each character, where it has one (R276). -/
def asciiBytes : List Char → Option (List (Option Byte))
  | [] => some []
  | ch :: rest =>
    if ch.toNat < 128 then (asciiBytes rest).map (some (BitVec.ofNat 8 ch.toNat) :: ·) else none

/-- What a directive emits, lowest address first. `none` inside the list is a byte that `reserve` sets aside and
leaves unwritten (R275). No answer at all is a value that does not fit its type, or a character without an ASCII
code: the source does not say what the assembler does there (R266). -/
def Directive.emit : Directive → Option (List (Option Byte))
  | .u8 v => unsignedBytes 1 v
  | .u16 v => unsignedBytes 2 v
  | .u24 v => unsignedBytes 3 v
  | .u32 v => unsignedBytes 4 v
  | .i8 v => signedBytes 1 v
  | .i16 v => signedBytes 2 v
  | .i24 v => signedBytes 3 v
  | .i32 v => signedBytes 4 v
  | .reserve itemBytes amt => some (List.replicate (itemBytes * amt.getD 1) none)
  | .ascii text sen =>
    (asciiBytes text).map (· ++ match sen with
      | none => []
      | some b => [some b])

/-- The platform's load of bytes from an address upward, before a run (R38). An unwritten byte is skipped.
No range of the program image is marked: that the bytes of data directives are no part of the image of R64, so that a
program may store over them, is this model's choice (R266 speaks of data in the image, R38 names image and data apart;
notes/assumptions/42.md). -/
def State.placeBytes (a : Word) : List (Option Byte) → State → State
  | [], s => s
  | none :: rest, s => s.placeBytes (a + 1) rest
  | some b :: rest, s => (s.writeByte a b).placeBytes (a + 1) rest

/-- The load of code bytes into the separate instruction memory (R7, MEM_UNIFIED false). -/
def State.placeCode (a : Word) : List Byte → State → State
  | [], s => s
  | b :: rest, s => (s.writeCodeByte a b).placeCode (a + 1) rest

/-- The load of a program image: its bytes are placed and the range becomes text that no store may touch (R64). Bytes
past 0xFFFF go on at 0x0000, and the range with them (the spec does not say; notes/assumptions/25.md). -/
def State.loadImage (a : Word) (bytes : List Byte) (s : State) : State :=
  let t := if s.params.memUnified then s.placeBytes a (bytes.map some) else s.placeCode a bytes
  { t with image := (a, bytes.length) :: s.image }

end Sys2Proof.Machine
end

