-- ==== Sys2Proof/Safety.lean ====
section
/-! DEFINITION. The words the claims are stated in: what an instruction reads and writes, what a state keeps of
another, and the shapes in which an instruction completes. Nothing of the machine uses this file. -/

namespace Sys2Proof.Safety

open Sys2Proof.Machine

/-! ## The setting -/

/-- The parameters of R7 are at the spec's choice and translation is off (VM absent, R66): the setting of the spec's own
rules about memory. -/
def AtSpecChoice (s : State) : Prop := s.params = Params.spec ∧ s.platform.vm = []

/-! ## How an instruction ends -/

/-- The instruction answers a next state, and that state satisfies `P`. -/
def Answers (i : Instr) (s : State) (P : State → Prop) : Prop := ∃ t, exec i s = .next t ∧ P t

/-- The instruction raises a cause (R283): it does none of its own effects and the trap is taken. -/
def Raises (i : Instr) (s : State) (cause : Cause) : Prop := exec i s = takeTrap cause s

/-- The instruction has no step, for a reason the spec names (R100). -/
def Refuses (i : Instr) (s : State) (why : Refusal) : Prop := exec i s = .refused why

/-- None of these registers is pending (R25). -/
def Ready (rs : List Reg) (s : State) : Prop := ∀ r ∈ rs, s.pending r = false

/-! ## What a state keeps of another. The counters of the model's own draws are in none of these. -/

/-- Every register outside the list is unchanged. -/
def RegsSameBut (rs : List Reg) (s t : State) : Prop := ∀ r, r ∉ rs → t.reg r = s.reg r

/-- Every async resolved bit and in-flight record outside the list is unchanged. -/
def LoadsSameBut (rs : List Reg) (s t : State) : Prop := ∀ r, r ∉ rs → t.awaited r = s.awaited r

/-- Every byte of memory outside the list of addresses reads as before. -/
def MemorySameBut (addrs : List Word) (s t : State) : Prop := ∀ a, a ∉ addrs → t.readByte a = s.readByte a

/-- The control and status registers, the saved flags, the interrupt mask, a waiting trap entry and the record of
outstanding stores are unchanged. -/
def SpecialsSame (s t : State) : Prop :=
  t.pen = s.pen ∧ t.ira = s.ira ∧ t.savedFlags = s.savedFlags ∧ t.masked = s.masked ∧ t.entering = s.entering ∧
  t.unfenced = s.unfenced ∧ ∀ k, t.csrWord k = s.csrWord k

/-- The TLB and the deferred flush are unchanged. -/
def TlbSame (s t : State) : Prop := t.tlb = s.tlb ∧ t.flushPending = s.flushPending

/-- The parameters, the platform, the program image, a separate instruction memory, the coming events and the step
count are unchanged. -/
def OutsideSame (s t : State) : Prop :=
  t.params = s.params ∧ t.platform = s.platform ∧ t.image = s.image ∧ t.code = s.code ∧ t.inputs = s.inputs ∧
  t.clock = s.clock

/-- Memory, the special registers, the TLB and the outside are unchanged: what every instruction that only
computes keeps. -/
def RestSame (s t : State) : Prop := MemorySameBut [] s t ∧ SpecialsSame s t ∧ TlbSame s t ∧ OutsideSame s t

/-- The flags that are given have their values; a flag given as `none` may have either. -/
def FlagsAre (c sg z : Option Bool) (t : State) : Prop :=
  (∀ b, c = some b → t.flags.c = b) ∧ (∀ b, sg = some b → t.flags.s = b) ∧ (∀ b, z = some b → t.flags.z = b)

/-! ## The shapes of a completed instruction -/

/-- The register holds the value (zr holds 0 whatever is written, R21) and the flags are as given; the instruction
at the next address follows; nothing else changed. -/
def RegisterWritten (rd : Reg) (v : Word) (c sg z : Option Bool) (s t : State) : Prop :=
  t.reg rd = (if rd = .zr then 0 else v) ∧ FlagsAre c sg z t ∧ t.addr = s.addr + 2 ∧
  RegsSameBut [rd] s t ∧ LoadsSameBut [] s t ∧ RestSame s t

/-- An instruction that reads `sources` completes with `v` in `rd` as soon as they are ready. It is the whole rule
where `rd` is among the sources or is zr: such a write finds no pending register (R28). -/
def CompletesWith (i : Instr) (sources : List Reg) (rd : Reg) (v : Word) (c sg z : Option Bool) (s : State) : Prop :=
  Ready sources s → Answers i s (RegisterWritten rd v c sg z s)

/-- The whole rule of an instruction that reads `sources` and writes `v` to `rd`: with the sources ready, a pending
destination raises the fault of R28, and otherwise the instruction completes. -/
def WritesRegister (i : Instr) (sources : List Reg) (rd : Reg) (v : Word) (c sg z : Option Bool) (s : State) :
    Prop :=
  Ready sources s →
    (s.pending rd = true → Raises i s (.pendingWrite rd)) ∧
    (s.pending rd = false → Answers i s (RegisterWritten rd v c sg z s))

/-- An arithmetic instruction (class FW arithmetic, R33): the value, c as given, s and z from the value. -/
def ArithmeticRule (i : Instr) (sources : List Reg) (rd : Reg) (v : Word) (c : Bool) (s : State) : Prop :=
  WritesRegister i sources rd v (some c) (some v.msb) (some (decide (v = 0))) s

/-- The same where the destination is read first or is zr. -/
def ArithmeticUpdate (i : Instr) (sources : List Reg) (rd : Reg) (v : Word) (c : Bool) (s : State) : Prop :=
  CompletesWith i sources rd v (some c) (some v.msb) (some (decide (v = 0))) s

/-- A logical instruction (class FW logical, R33, R130): the value, s and z from it, c is `any`. -/
def LogicalRule (i : Instr) (sources : List Reg) (rd : Reg) (v : Word) (s : State) : Prop :=
  WritesRegister i sources rd v none (some v.msb) (some (decide (v = 0))) s

/-- The same where the destination is read first. -/
def LogicalUpdate (i : Instr) (sources : List Reg) (rd : Reg) (v : Word) (s : State) : Prop :=
  CompletesWith i sources rd v none (some v.msb) (some (decide (v = 0))) s

/-- An instruction of class FU (R33): the value; c, s and z are each `any`. -/
def FreeFlagsRule (i : Instr) (sources : List Reg) (rd : Reg) (v : Word) (s : State) : Prop :=
  WritesRegister i sources rd v none none none s

/-- The word of the instruction has these fixed bits under this mask (R91). -/
def EncodedAs (i : Instr) (mask bits : Word) : Prop := encode i &&& mask = bits

/-- Nothing but ip changed, which is the next address: no register, no flag, no memory. -/
def OnlyAdvanced (s t : State) : Prop :=
  t.addr = s.addr + 2 ∧ t.flags = s.flags ∧ RegsSameBut [] s t ∧ LoadsSameBut [] s t ∧ RestSame s t

/-- ip holds the target with bit 0 dropped (R30); a taken jump lets a waiting TLB flush happen (R223). Flags,
memory and special registers are unchanged. -/
def JumpedTo (target : Word) (s t : State) : Prop :=
  t.addr = target &&& 0xFFFE ∧ t.flags = s.flags ∧ LoadsSameBut [] s t ∧ MemorySameBut [] s t ∧
  SpecialsSame s t ∧ OutsideSame s t ∧
  (if t.addr ≠ s.addr + 2 ∧ s.flushPending = true then t.tlb = [] ∧ t.flushPending = false else TlbSame s t)

/-- A jump that also leaves the return address in rp. -/
def LinkedAndJumpedTo (target : Word) (s t : State) : Prop :=
  JumpedTo target s t ∧ t.reg .rp = s.addr + 2 ∧ RegsSameBut [.rp] s t

/-- A load of `v` is outstanding for the register, which is pending and has not changed yet (R202). -/
def LoadStarted (rd : Reg) (v : Word) (s t : State) : Prop :=
  t.awaited rd = some v ∧ t.addr = s.addr + 2 ∧ t.flags = s.flags ∧
  RegsSameBut [] s t ∧ LoadsSameBut [rd] s t ∧ RestSame s t

/-- The bytes are in memory at their addresses and every other address reads as before. -/
def BytesStored (cells : List (Word × Byte)) (s t : State) : Prop :=
  (∀ p ∈ cells, t.readByte p.1 = p.2) ∧ MemorySameBut (cells.map Prod.fst) s t ∧
  SpecialsSame s t ∧ TlbSame s t ∧ OutsideSame s t

/-- A completed store: the bytes, the next address, and no register, flag or load changed. -/
def StoreDone (cells : List (Word × Byte)) (s t : State) : Prop :=
  BytesStored cells s t ∧ t.addr = s.addr + 2 ∧ t.flags = s.flags ∧ RegsSameBut [] s t ∧ LoadsSameBut [] s t

/-- A CSR was written and nothing else but ip changed: `pen` and the CSR words are as given. -/
def CsrWritten (pen : Bool) (word : BitVec 6 → Word) (s t : State) : Prop :=
  t.pen = pen ∧ (∀ k, t.csrWord k = word k) ∧ t.ira = s.ira ∧ t.savedFlags = s.savedFlags ∧
  t.masked = s.masked ∧ t.entering = s.entering ∧ t.unfenced = s.unfenced ∧
  t.addr = s.addr + 2 ∧ t.flags = s.flags ∧ RegsSameBut [] s t ∧ LoadsSameBut [] s t ∧
  MemorySameBut [] s t ∧ TlbSame s t ∧ OutsideSame s t

/-- A completed exchange: the bytes are stored and the register, unless it is zr, waits for the old value. -/
def ExchangeDone (rw : Reg) (old : Word) (cells : List (Word × Byte)) (s t : State) : Prop :=
  BytesStored cells s t ∧ t.addr = s.addr + 2 ∧ t.flags = s.flags ∧ RegsSameBut [] s t ∧
  LoadsSameBut [rw] s t ∧ t.awaited rw = (if rw = .zr then none else some old)

/-- The two bytes of a word store at an address, the low byte at the lower one (R53). -/
def wordCells (a v : Word) : List (Word × Byte) := [(a, v.extractLsb' 0 8), (a + 1, v.extractLsb' 8 8)]

/-! ## Traps. `u` is what the platform's further writes leave of the state; without such writes it is the state itself
(for an interrupt, with `pen` free). -/

/-- The registers the sequence waits for are ready, its further writes leave `u`, and the values it computes are these
(R289): where rp is saved, where the handler is, and what rp holds afterwards. -/
def EntryComputes (q : TrapSequence) (cause : Cause) (save handler rpAfter : Word) (u s : State) : Prop :=
  Ready q.needs s ∧ q.rpSave.value cause.info s = .ok save ∧ q.handler.value cause.info s = .ok handler ∧
  applyWrites cause.info s q.writes (penAfterEntry cause s) = .ok u ∧
  match q.rpAfter with
  | none => rpAfter = u.reg .rp
  | some e => e.value cause.info s = .ok rpAfter

/-- The state after a trap entry (R289, R290): rp is in memory at the save address, where a pending rp leaves a free
value, and ira holds the return address; ip is the handler's address; rp, the mask and the saved flags are as the
platform says; every load in flight stays in flight (R291). -/
def TrapEntered (q : TrapSequence) (save handler rpAfter returnTo : Word) (u s t : State) : Prop :=
  (s.pending .rp = false → t.readWord save = s.reg .rp) ∧ MemorySameBut [save, save + 1] u t ∧
  t.ira = returnTo ∧ t.addr = handler &&& 0xFFFE ∧ t.reg .rp = rpAfter ∧ RegsSameBut [.rp] u t ∧
  LoadsSameBut [] s t ∧ t.flags = u.flags ∧ t.savedFlags = (if q.savesFlags then s.flags else u.savedFlags) ∧
  t.masked = (q.masks || u.masked) ∧ t.entering = none ∧ t.pen = u.pen ∧
  (∀ k, t.csrWord k = u.csrWord k) ∧ TlbSame u t ∧ OutsideSame s t

/-- The whole rule of a trap with a TRAP_ENTRY, for the sequence of its cause and what the machine answers: the entry
waits while a register it has to wait for is pending; it is refused where rp would be saved at an odd address or in the program
image; and otherwise it is done. -/
def EntryRule (q : TrapSequence) (cause : Cause) (returnTo : Word) (s : State) (answered : Result) : Prop :=
  ((∃ r ∈ q.needs, s.pending r = true) → answered = .next { s with entering := some cause }) ∧
  ∀ (save handler rpAfter : Word) (u : State), EntryComputes q cause save handler rpAfter u s →
    (oddAddress save = true → answered = .refused .misalignedWord) ∧
    (oddAddress save = false → (s.inImage save || s.inImage (save + 1)) = true → answered = .refused .storeToText) ∧
    (oddAddress save = false → (s.inImage save || s.inImage (save + 1)) = false →
      ∃ t, answered = .next t ∧ TrapEntered q save handler rpAfter returnTo u s t)

/-- The entry of a platform writes no flags for any cause. -/
def EntryKeepsFlags (e : TrapEntry) : Prop := ∀ cause v, TrapWrite.flags v ∉ (e.sequence cause).writes

/-- rfi returned (R292): ip is ira with bit 0 dropped, rp is as given, or waits for that value where the platform reloads
it as a load, interrupts are enabled as the platform says; beside that and its further writes nothing changed. -/
def Returned (r : TrapReturn) (rp : Word) (u s t : State) : Prop :=
  t.addr = s.ira &&& 0xFFFE ∧
  (if r.rpReload.isSome && r.reloadPends then
      t.awaited .rp = some rp ∧ RegsSameBut [] u t ∧ LoadsSameBut [.rp] s t
    else t.reg .rp = rp ∧ RegsSameBut [.rp] u t ∧ LoadsSameBut [] s t) ∧
  t.masked = (!r.unmasks && u.masked) ∧ t.flags = u.flags ∧ t.pen = u.pen ∧ (∀ k, t.csrWord k = u.csrWord k) ∧
  MemorySameBut [] u t ∧ t.ira = u.ira ∧ t.savedFlags = u.savedFlags ∧
  t.entering = s.entering ∧ TlbSame u t ∧ OutsideSame s t

/-! ## What each instruction reads and writes, by the letters S, W and D of its pattern -/

/-- The registers an instruction reads (R27): its S and W fields, and rp for `ret`. What rfi reads depends on the
platform and is not listed. -/
def sources : Instr → List Reg
  | .add _ a b | .addc _ a b | .sub _ a b | .subb _ a b | .slt _ a b | .sltu _ a b | .szr _ a b => [a, b]
  | .ior _ a b | .and _ a b | .xor _ a b => [a, b]
  | .bsld _ a b | .bsrd _ a b | .bsrsd _ a b | .brrd _ a b | .cmp a b => [a, b]
  | .addi w _ | .iori w _ | .ioriu w _ | .andi w _ | .andiu w _ | .xori w _ | .xoriu w _ => [w]
  | .inc w | .dec w | .cut4 w | .cut8 w | .clrl w | .not w | .not8 w => [w]
  | .cmpi a _ | .biti a _ | .bsl _ a _ | .bsr _ a _ | .bsrs _ a _ | .brr _ a _ => [a]
  | .jmpd a | .jmpdl a | .csrw a _ | .mov _ a | .test a | .neg _ a => [a]
  | .sneg _ a | .spos _ a | .snez _ a => [a]
  | .mld _ b _ | .mldw _ b _ | .prfd b _ | .mclr b _ | .mclrw b _ => [b]
  | .mst d b _ | .mstw d b _ | .xch d b _ | .xchw d b _ => [b, d]
  | .alloc _ => [.sp]
  | .ret => [.rp]
  | .lli .. | .lui .. | .clr _ | .csrr .. | .ip .. | .clri _ => []
  | .jmp _ | .jmpl _ | .jmpr _ | .jmprl _ | .brh .. | .prfi _ => []
  | .bkpt | .nop | .sysc _ | .fence | .ftlb | .rfi | .wfi | .scf | .rscf => []
  | .reservedB840 | .reservedB880 | .reserved01111 .. => []
  | .reservedBrhCond011 _ | .reservedBrhCond111 _ => []

/-- The register an instruction writes without reading it first, or reads and writes (R28): its D or W field, rp for
the linking jumps. What rfi writes depends on the platform and is not listed. -/
def destination : Instr → Option Reg
  | .add d _ _ | .addc d _ _ | .sub d _ _ | .subb d _ _ | .slt d _ _ | .sltu d _ _ | .szr d _ _ => some d
  | .ior d _ _ | .and d _ _ | .xor d _ _ => some d
  | .bsld d _ _ | .bsrd d _ _ | .bsrsd d _ _ | .brrd d _ _ => some d
  | .addi w _ | .iori w _ | .ioriu w _ | .andi w _ | .andiu w _ | .xori w _ | .xoriu w _ => some w
  | .inc w | .dec w | .cut4 w | .cut8 w | .clrl w | .not w | .not8 w => some w
  | .bsl d _ _ | .bsr d _ _ | .bsrs d _ _ | .brr d _ _ | .lli d _ | .lui d _ | .clr d => some d
  | .mov d _ | .neg d _ | .sneg d _ | .spos d _ | .snez d _ | .csrr d _ | .ip d _ => some d
  | .mld d _ _ | .mldw d _ _ | .xch d _ _ | .xchw d _ _ => some d
  | .alloc _ => some .sp
  | .jmpl _ | .jmprl _ | .jmpdl _ => some .rp
  | .cmp .. | .cmpi .. | .biti .. | .test _ | .mst .. | .mstw .. | .mclr .. | .mclrw .. | .prfd .. => none
  | .jmp _ | .jmpr _ | .jmpd _ | .ret | .brh .. | .prfi _ | .csrw .. | .clri _ => none
  | .bkpt | .nop | .sysc _ | .fence | .ftlb | .rfi | .wfi | .scf | .rscf => none
  | .reservedB840 | .reservedB880 | .reserved01111 .. => none
  | .reservedBrhCond011 _ | .reservedBrhCond111 _ => none

/-- Class FN (R33): the instructions that do not write fl. csrw and clri are in it unless the CSR is fl; rfi is
in no class. -/
def leavesFlags : Instr → Bool
  | .csrr .. | .csrw .. | .ip .. | .clri _ => true
  | .jmp _ | .jmpl _ | .jmpr _ | .jmprl _ | .jmpd _ | .jmpdl _ | .ret | .brh .. | .prfi _ => true
  | .mld .. | .mldw .. | .mst .. | .mstw .. | .xch .. | .xchw .. | .prfd .. | .mclr .. | .mclrw .. => true
  | .nop | .bkpt | .sysc _ | .fence | .ftlb | .wfi => true
  | _ => false

/-- The instructions that store to memory (R51). A trap entry stores too and is no instruction of this list. -/
def storesToMemory : Instr → Bool
  | .mst .. | .mstw .. | .xch .. | .xchw .. | .mclr .. | .mclrw .. => true
  | _ => false

/-- The instructions that can move ip elsewhere than to A + 2 by a rule of their own: the jumps, the branch and
rfi. -/
def mayJump : Instr → Bool
  | .jmp _ | .jmpl _ | .jmpr _ | .jmprl _ | .jmpd _ | .jmpdl _ | .ret | .brh .. | .rfi => true
  | _ => false

end Sys2Proof.Safety
end

