-- ==== Sys2Proof/Certificates/Slice0/Obligations.lean ====
section
/-! DEFINITION. The obligations: what is claimed of the model, each a proposition over the definitions of the
model and of Safety.lean. OBLIGATIONS.json holds the same list in words. -/

open Sys2Proof Sys2Proof.Machine Sys2Proof.Safety

/-- r0 reads 0, is never pending, and a write to it changes nothing (10_state.md R21, 10_state.md section 2).
-/
def Obligations.ZeroRegisterReadsZeroAndDropsWrites : Prop :=
  ∀ (s : State) (v : Word),
    s.reg .zr = 0 ∧ s.pending .zr = false ∧ s.setReg .zr v = s ∧ s.startLoad .zr v = s

/-- add and addc: the wrapped sum, c the carry out, s and z from the result (R111, R112). -/
def Obligations.AddAndAddcSumWithCarryOut : Prop :=
  ∀ (rd rs1 rs2 : Reg) (s : State), s.params = Params.spec →
    ArithmeticRule (.add rd rs1 rs2) [rs1, rs2] rd (s.reg rs1 + s.reg rs2)
      (decide (2 ^ 16 ≤ (s.reg rs1).toNat + (s.reg rs2).toNat)) s ∧
    EncodedAs (.add rd rs1 rs2) 0xF8C0 0x0000 ∧ decode 0x0000 = .ok .bkpt ∧
    ArithmeticRule (.addc rd rs1 rs2) [rs1, rs2] rd
      (s.reg rs1 + s.reg rs2 + (if s.flags.c then 1 else 0))
      (decide (2 ^ 16 ≤ (s.reg rs1).toNat + (s.reg rs2).toNat + (if s.flags.c then 1 else 0))) s ∧
    EncodedAs (.addc rd rs1 rs2) 0xF8C0 0x0040

/-- sub and subb: the wrapped difference, c = 1 exactly when there is no borrow (40_arithmetic.md R113,
40_arithmetic.md R114, 92_eei_decisions.md D8). The polarity of c is the spec's decision D8:
notes/assumptions/14.md. -/
def Obligations.SubAndSubbLeaveCarryForNoBorrow : Prop :=
  ∀ (rd rs1 rs2 : Reg) (s : State), s.params = Params.spec →
    ArithmeticRule (.sub rd rs1 rs2) [rs1, rs2] rd (s.reg rs1 - s.reg rs2)
      (decide ((s.reg rs2).toNat ≤ (s.reg rs1).toNat)) s ∧
    EncodedAs (.sub rd rs1 rs2) 0xF8C0 0x0080 ∧
    ArithmeticRule (.subb rd rs1 rs2) [rs1, rs2] rd
      (s.reg rs1 - s.reg rs2 - (if s.flags.c then 0 else 1))
      (decide ((s.reg rs2).toNat + (if s.flags.c then 0 else 1) ≤ (s.reg rs1).toNat)) s ∧
    EncodedAs (.subb rd rs1 rs2) 0xF8C0 0x00C0

/-- addi adds, cmpi compares with, the sign-extended immediate (40_arithmetic.md R115, 40_arithmetic.md R116,
46_system.md R219, 92_eei_decisions.md D8). The polarity of c after cmpi is the spec's decision D8:
notes/assumptions/14.md. -/
def Obligations.AddiAndCmpiUseTheSignExtendedImmediate : Prop :=
  ∀ (r : Reg) (imm : BitVec 8) (s : State), s.params = Params.spec →
    ArithmeticUpdate (.addi r imm) [r] r (s.reg r + BitVec.ofInt 16 imm.toInt)
      (decide (2 ^ 16 ≤ (s.reg r).toNat + (BitVec.ofInt 16 imm.toInt : Word).toNat)) s ∧
    EncodedAs (.addi r imm) 0xF800 0x0800 ∧ decode 0x0800 = .ok .nop ∧
    ArithmeticUpdate (.cmpi r imm) [r] .zr (s.reg r - BitVec.ofInt 16 imm.toInt)
      (decide ((BitVec.ofInt 16 imm.toInt : Word).toNat ≤ (s.reg r).toNat)) s ∧
    EncodedAs (.cmpi r imm) 0xF800 0x1000

/-- slt and sltu write 1 or 0 by the exact signed and unsigned comparison (40_arithmetic.md R117,
40_arithmetic.md R118, 92_eei_decisions.md D14). The exact comparison is the spec's decision D14:
notes/assumptions/18.md. -/
def Obligations.SltAndSltuCompareExactly : Prop :=
  ∀ (rd rs1 rs2 : Reg) (s : State), s.params = Params.spec →
    FreeFlagsRule (.slt rd rs1 rs2) [rs1, rs2] rd (if (s.reg rs1).toInt < (s.reg rs2).toInt then 1 else 0) s ∧
    EncodedAs (.slt rd rs1 rs2) 0xF8C0 0x1880 ∧
    FreeFlagsRule (.sltu rd rs1 rs2) [rs1, rs2] rd (if (s.reg rs1).toNat < (s.reg rs2).toNat then 1 else 0) s ∧
    EncodedAs (.sltu rd rs1 rs2) 0xF8C0 0x18C0

/-- add then addc is a 32-bit sum, sub then subb a 32-bit difference (40_arithmetic.md R120, 10_state.md R34,
92_eei_decisions.md D8). The carry polarity is the spec's decision D8: notes/assumptions/14.md. -/
def Obligations.TwoWordAdditionAndSubtractionAreExact : Prop :=
  ∀ (lo hi l1 l2 h1 h2 : Reg) (s : State), s.params = Params.spec →
    s.anyPending = false → lo ≠ .zr → hi ≠ .zr → hi ≠ lo → lo ≠ h1 → lo ≠ h2 →
    (∃ t u, exec (.add lo l1 l2) s = .next t ∧ exec (.addc hi h1 h2) t = .next u ∧
      (u.reg hi ++ u.reg lo : BitVec 32) = (s.reg h1 ++ s.reg l1) + (s.reg h2 ++ s.reg l2) ∧
      u.flags.c = decide (2 ^ 32 ≤ (s.reg h1 ++ s.reg l1).toNat + (s.reg h2 ++ s.reg l2).toNat)) ∧
    (∃ t u, exec (.sub lo l1 l2) s = .next t ∧ exec (.subb hi h1 h2) t = .next u ∧
      (u.reg hi ++ u.reg lo : BitVec 32) = (s.reg h1 ++ s.reg l1) - (s.reg h2 ++ s.reg l2) ∧
      u.flags.c = decide ((s.reg h2 ++ s.reg l2).toNat ≤ (s.reg h1 ++ s.reg l1).toNat))

/-- szr copies rs1 when rs2 is 0, and otherwise writes no register and does not fault (41_logic.md R131,
92_eei_decisions.md D15). The roles and the missing fault are the spec's decision D15:
notes/assumptions/19.md. -/
def Obligations.SzrWritesOnlyWhenTheTestedRegisterIsZero : Prop :=
  ∀ (rd rs1 rs2 : Reg) (s : State), s.params = Params.spec →
    EncodedAs (.szr rd rs1 rs2) 0xF8C0 0x2000 ∧
    (s.reg rs2 = 0 → FreeFlagsRule (.szr rd rs1 rs2) [rs1, rs2] rd (s.reg rs1) s) ∧
    (s.reg rs2 ≠ 0 → Ready [rs1, rs2] s →
      Answers (.szr rd rs1 rs2) s fun t =>
        t.addr = s.addr + 2 ∧ RegsSameBut [] s t ∧ LoadsSameBut [] s t ∧ RestSame s t)

/-- ior, and, xor: the bitwise result, s and z from it, c free (R132, R133, R134). -/
def Obligations.LogicRegisterFormsCombineBits : Prop :=
  ∀ (rd rs1 rs2 : Reg) (s : State),
    (∃ v, LogicalRule (.ior rd rs1 rs2) [rs1, rs2] rd v s ∧
      ∀ j, v.getLsbD j = ((s.reg rs1).getLsbD j || (s.reg rs2).getLsbD j)) ∧
    EncodedAs (.ior rd rs1 rs2) 0xF8C0 0x2040 ∧
    (∃ v, LogicalRule (.and rd rs1 rs2) [rs1, rs2] rd v s ∧
      ∀ j, v.getLsbD j = ((s.reg rs1).getLsbD j && (s.reg rs2).getLsbD j)) ∧
    EncodedAs (.and rd rs1 rs2) 0xF8C0 0x2080 ∧
    (∃ v, LogicalRule (.xor rd rs1 rs2) [rs1, rs2] rd v s ∧
      ∀ j, v.getLsbD j = ((s.reg rs1).getLsbD j ^^ (s.reg rs2).getLsbD j)) ∧
    EncodedAs (.xor rd rs1 rs2) 0xF8C0 0x20C0

/-- iori, andi, xori sign-extend and ioriu, andiu, xoriu zero-extend the immediate (R135, R136, R137, R138,
R140, R141). -/
def Obligations.LogicImmediateFormsExtendTheirImmediate : Prop :=
  ∀ (rw : Reg) (imm : BitVec 8) (s : State),
    LogicalUpdate (.iori rw imm) [rw] rw (s.reg rw ||| BitVec.ofInt 16 imm.toInt) s ∧
    EncodedAs (.iori rw imm) 0xF800 0x2800 ∧
    LogicalUpdate (.ioriu rw imm) [rw] rw (s.reg rw ||| BitVec.ofNat 16 imm.toNat) s ∧
    EncodedAs (.ioriu rw imm) 0xF800 0x3000 ∧
    LogicalUpdate (.andi rw imm) [rw] rw (s.reg rw &&& BitVec.ofInt 16 imm.toInt) s ∧
    EncodedAs (.andi rw imm) 0xF800 0x3800 ∧
    LogicalUpdate (.andiu rw imm) [rw] rw (s.reg rw &&& BitVec.ofNat 16 imm.toNat) s ∧
    EncodedAs (.andiu rw imm) 0xF800 0x4000 ∧
    LogicalUpdate (.xori rw imm) [rw] rw (s.reg rw ^^^ BitVec.ofInt 16 imm.toInt) s ∧
    EncodedAs (.xori rw imm) 0xF800 0x5000 ∧
    LogicalUpdate (.xoriu rw imm) [rw] rw (s.reg rw ^^^ BitVec.ofNat 16 imm.toNat) s ∧
    EncodedAs (.xoriu rw imm) 0xF800 0x5800

/-- biti: z = 1 exactly when no tested bit is set, s = 0, no register written (R139). -/
def Obligations.BitiTestsTheLowByte : Prop :=
  ∀ (rs : Reg) (imm : BitVec 8) (s : State),
    EncodedAs (.biti rs imm) 0xF800 0x4800 ∧
    (Ready [rs] s →
      Answers (.biti rs imm) s fun t =>
        (t.flags.z = true ↔ ∀ j, j < 8 → ((s.reg rs).getLsbD j && imm.getLsbD j) = false) ∧
        t.flags.s = false ∧ t.addr = s.addr + 2 ∧ RegsSameBut [] s t ∧ LoadsSameBut [] s t ∧ RestSame s t)

/-- bsl, bsr, bsrs and brr by their field: product, quotient, floor quotient, rotation (R153, R154, R155,
R156). -/
def Obligations.ImmediateShiftsMoveBits : Prop :=
  ∀ (rd rs : Reg) (amt : BitVec 4) (s : State),
    FreeFlagsRule (.bsl rd rs amt) [rs] rd (BitVec.ofNat 16 ((s.reg rs).toNat * 2 ^ amt.toNat)) s ∧
    EncodedAs (.bsl rd rs amt) 0xF880 0x6000 ∧
    FreeFlagsRule (.bsr rd rs amt) [rs] rd (BitVec.ofNat 16 ((s.reg rs).toNat / 2 ^ amt.toNat)) s ∧
    EncodedAs (.bsr rd rs amt) 0xF880 0x6080 ∧
    FreeFlagsRule (.bsrs rd rs amt) [rs] rd (BitVec.ofInt 16 ((s.reg rs).toInt / 2 ^ amt.toNat)) s ∧
    EncodedAs (.bsrs rd rs amt) 0xF880 0x6800 ∧
    (∃ v, FreeFlagsRule (.brr rd rs amt) [rs] rd v s ∧
      ∀ j, j < 16 → v.getLsbD j = (s.reg rs).getLsbD ((j + amt.toNat) % 16)) ∧
    EncodedAs (.brr rd rs amt) 0xF880 0x6880

/-- bsld, bsrd, bsrsd and brrd shift by the low four bits of the amount register (42_shift.md R152,
42_shift.md R157 to R160, 92_eei_decisions.md D16). The four bits are the spec's decision D16:
notes/assumptions/20.md. -/
def Obligations.RegisterShiftsUseTheLowFourBits : Prop :=
  ∀ (rd rs1 rs2 : Reg) (s : State), s.params = Params.spec →
    FreeFlagsRule (.bsld rd rs1 rs2) [rs1, rs2] rd
      (BitVec.ofNat 16 ((s.reg rs1).toNat * 2 ^ ((s.reg rs2).toNat % 16))) s ∧
    EncodedAs (.bsld rd rs1 rs2) 0xF8C0 0x7000 ∧
    FreeFlagsRule (.bsrd rd rs1 rs2) [rs1, rs2] rd
      (BitVec.ofNat 16 ((s.reg rs1).toNat / 2 ^ ((s.reg rs2).toNat % 16))) s ∧
    EncodedAs (.bsrd rd rs1 rs2) 0xF8C0 0x7040 ∧
    FreeFlagsRule (.bsrsd rd rs1 rs2) [rs1, rs2] rd
      (BitVec.ofInt 16 ((s.reg rs1).toInt / 2 ^ ((s.reg rs2).toNat % 16))) s ∧
    EncodedAs (.bsrsd rd rs1 rs2) 0xF8C0 0x7080 ∧
    (∃ v, FreeFlagsRule (.brrd rd rs1 rs2) [rs1, rs2] rd v s ∧
      ∀ j, j < 16 → v.getLsbD j = (s.reg rs1).getLsbD ((j + (s.reg rs2).toNat) % 16)) ∧
    EncodedAs (.brrd rd rs1 rs2) 0xF8C0 0x70C0

/-- lli writes the sign-extended immediate, lui the immediate in the high byte (R170, R171). -/
def Obligations.LoadImmediateFormsFillTheRegister : Prop :=
  ∀ (rd : Reg) (imm : BitVec 8) (s : State),
    FreeFlagsRule (.lli rd imm) [] rd (BitVec.ofInt 16 imm.toInt) s ∧
    EncodedAs (.lli rd imm) 0xF800 0x8000 ∧
    FreeFlagsRule (.lui rd imm) [] rd (BitVec.ofNat 16 (imm.toNat * 256)) s ∧
    EncodedAs (.lui rd imm) 0xF800 0x8800

/-- jmp goes to imm << 5, jmpr to A + 2 + 2 * imm; nothing else changes (44_jump_branch.md R176,
44_jump_branch.md R179, 92_eei_decisions.md D4). That relative targets count from A + 2 is the spec's decision
D4: notes/assumptions/12.md. -/
def Obligations.UnlinkedJumpsReachTheirTargets : Prop :=
  ∀ (imm : BitVec 11) (s : State), s.params = Params.spec →
    Answers (.jmp imm) s (fun t => JumpedTo (BitVec.ofNat 16 (imm.toNat * 32)) s t ∧ RegsSameBut [] s t) ∧
    EncodedAs (.jmp imm) 0xF800 0x9000 ∧
    Answers (.jmpr imm) s
      (fun t => JumpedTo (s.addr + 2 + BitVec.ofInt 16 (2 * imm.toInt)) s t ∧ RegsSameBut [] s t) ∧
    EncodedAs (.jmpr imm) 0xF800 0xA000

/-- jmpl and jmprl put A + 2 into rp and jump; a pending rp faults (44_jump_branch.md R177, 44_jump_branch.md
R180, 92_eei_decisions.md D4, 92_eei_decisions.md D5). What ip means on the right is the spec's decisions D4
and D5: notes/assumptions/12.md. -/
def Obligations.LinkingJumpsLeaveTheReturnAddress : Prop :=
  ∀ (imm : BitVec 11) (s : State), s.params = Params.spec →
    (s.pending .rp = true → Raises (.jmpl imm) s (.pendingWrite .rp) ∧ Raises (.jmprl imm) s (.pendingWrite .rp)) ∧
    (s.pending .rp = false →
      Answers (.jmpl imm) s (LinkedAndJumpedTo (BitVec.ofNat 16 (imm.toNat * 32)) s) ∧
      Answers (.jmprl imm) s (LinkedAndJumpedTo (s.addr + 2 + BitVec.ofInt 16 (2 * imm.toInt)) s)) ∧
    EncodedAs (.jmpl imm) 0xF800 0x9800 ∧ EncodedAs (.jmprl imm) 0xF800 0xA800

/-- jmpd and jmpdl jump to the register with bit 0 dropped; jmpdl reads before it links (44_jump_branch.md
R181, 44_jump_branch.md R182, 44_jump_branch.md R183, 92_eei_decisions.md D6). That bit 0 is dropped is the
spec's decision D6: notes/assumptions/12.md. -/
def Obligations.RegisterJumpsDropBitZero : Prop :=
  ∀ (rs : Reg) (s : State), s.params = Params.spec → Ready [rs] s →
    Answers (.jmpd rs) s (fun t => JumpedTo (s.reg rs) s t ∧ RegsSameBut [] s t) ∧
    (s.pending .rp = true → Raises (.jmpdl rs) s (.pendingWrite .rp)) ∧
    (s.pending .rp = false → Answers (.jmpdl rs) s (LinkedAndJumpedTo (s.reg rs) s))

/-- brh goes to A + 2 + 2 * imm exactly when its condition holds, else to A + 2 (44_jump_branch.md R184,
30_encoding.md R103, 92_eei_decisions.md D4, 92_eei_decisions.md D13). The base A + 2 is the spec's decision
D4, the refusals D13: notes/assumptions/12.md and 44.md. -/
def Obligations.BranchGoesByItsCondition : Prop :=
  ∀ (imm : BitVec 8) (s : State), s.params = Params.spec →
    (∀ p ∈ [(Cond.c, s.flags.c), (Cond.s, s.flags.s), (Cond.z, s.flags.z),
            (Cond.nc, !s.flags.c), (Cond.ns, !s.flags.s), (Cond.nz, !s.flags.z)],
      EncodedAs (.brh p.1 imm) 0xF800 0xC000 ∧
      (p.2 = true → Answers (.brh p.1 imm) s
        (fun t => JumpedTo (s.addr + 2 + BitVec.ofInt 16 (2 * imm.toInt)) s t ∧ RegsSameBut [] s t)) ∧
      (p.2 = false → Answers (.brh p.1 imm) s (OnlyAdvanced s))) ∧
    decode (0xC300 + BitVec.ofNat 16 imm.toNat) = .ok (.reservedBrhCond011 imm) ∧
    Refuses (.reservedBrhCond011 imm) s .reservedCondition ∧
    decode (0xC700 + BitVec.ofNat 16 imm.toNat) = .ok (.reservedBrhCond111 imm) ∧
    Refuses (.reservedBrhCond111 imm) s .reservedCondition

/-- prfi, nop and a load to zr change nothing but ip (30_encoding.md R105, 44_jump_branch.md R186,
46_system.md R219). -/
def Obligations.HintsAndNopOnlyAdvance : Prop :=
  ∀ (imm : BitVec 11) (base : Reg) (off : BitVec 5) (s : State),
    Answers (.prfi imm) s (OnlyAdvanced s) ∧ EncodedAs (.prfi imm) 0xF800 0xC800 ∧
    Answers .nop s (OnlyAdvanced s) ∧
    EncodedAs (.mld .zr base off) 0xFF00 0xD000 ∧ EncodedAs (.mldw .zr base off) 0xFF00 0xD800 ∧
    (Ready [base] s →
      Answers (.mld .zr base off) s (OnlyAdvanced s) ∧ Answers (.mldw .zr base off) s (OnlyAdvanced s))

/-- jmpl or jmprl followed by ret continues after the call (44_jump_branch.md R187, 44_jump_branch.md R175).
The link value is the spec's decision D5: notes/assumptions/12.md. -/
def Obligations.CallThenReturnResumesAfterTheCall : Prop :=
  ∀ (imm : BitVec 11) (s : State), s.params = Params.spec → s.pending .rp = false →
    (∃ t u, exec (.jmpl imm) s = .next t ∧ exec .ret t = .next u ∧ u.addr = s.addr + 2) ∧
    (∃ t u, exec (.jmprl imm) s = .next t ∧ exec .ret t = .next u ∧ u.addr = s.addr + 2)

/-- The effective address is base plus offset modulo 2^16, the word offset doubled (20_memory.md R58,
45_memory_access.md R195, 92_eei_decisions.md D19). The wrap is the spec's decision D19:
notes/assumptions/23.md. -/
def Obligations.EffectiveAddressesWrap : Prop :=
  ∀ (base : Word) (imm : BitVec 5) (s : State), s.params = Params.spec →
    s.effective base (byteOffset imm) = .ok (byteAddress base imm) ∧
    s.effective base (wordOffset imm) = .ok (wordAddress base imm) ∧
    (byteAddress base imm).toNat = (base.toNat + imm.toNat) % 65536 ∧
    (wordAddress base imm).toNat = (base.toNat + 2 * imm.toNat) % 65536 ∧
    (oddAddress (wordAddress base imm) = false → (wordAddress base imm).toNat + 1 < 65536)

/-- mld and mldw: the register becomes pending with the value fixed now; nothing else changes
(45_memory_access.md R196, 45_memory_access.md R197, 92_eei_decisions.md D18, 92_eei_decisions.md D22,
92_eei_decisions.md D23). Odd addresses, pending registers and prefetches are the spec's decisions D18, D22
and D23: notes/assumptions/22.md, 26.md and 27.md. -/
def Obligations.LoadsFixTheValueAndLeaveTheRegisterPending : Prop :=
  ∀ (rd base : Reg) (imm : BitVec 5) (s : State), AtSpecChoice s → Ready [base] s →
    let ea := byteAddress (s.reg base) imm
    let eaw := wordAddress (s.reg base) imm
    EncodedAs (.mld rd base imm) 0xF800 0xD000 ∧ EncodedAs (.mldw rd base imm) 0xF800 0xD800 ∧
    (rd = .zr → Answers (.mld rd base imm) s (OnlyAdvanced s) ∧ Answers (.mldw rd base imm) s (OnlyAdvanced s)) ∧
    (s.pending rd = true → Raises (.mld rd base imm) s (.pendingWrite rd) ∧
      Raises (.mldw rd base imm) s (.pendingWrite rd)) ∧
    (rd ≠ .zr → s.pending rd = false →
      Answers (.mld rd base imm) s (LoadStarted rd (BitVec.ofInt 16 (s.readByte ea).toInt) s) ∧
      (oddAddress eaw = true → Refuses (.mldw rd base imm) s .misalignedWord) ∧
      (oddAddress eaw = false →
        Answers (.mldw rd base imm) s (LoadStarted rd (s.readByte (eaw + 1) ++ s.readByte eaw) s)))

/-- mst stores bits 7:0, mstw both bytes little-endian; every other byte reads as before (45_memory_access.md
R198, 45_memory_access.md R199, 92_eei_decisions.md D17, 92_eei_decisions.md D18). The byte stored is decision
D17, the odd address decision D18: notes/assumptions/21.md and 22.md. -/
def Obligations.StoresWriteTheirBytesAndNothingElse : Prop :=
  ∀ (rs base : Reg) (imm : BitVec 5) (s : State), AtSpecChoice s → Ready [base, rs] s →
    let ea := byteAddress (s.reg base) imm
    let eaw := wordAddress (s.reg base) imm
    EncodedAs (.mst rs base imm) 0xF800 0xE000 ∧ EncodedAs (.mstw rs base imm) 0xF800 0xE800 ∧
    (s.inImage ea = false →
      Answers (.mst rs base imm) s (StoreDone [(ea, (s.reg rs).extractLsb' 0 8)] s)) ∧
    (oddAddress eaw = true → Refuses (.mstw rs base imm) s .misalignedWord) ∧
    (oddAddress eaw = false → s.inImage eaw = false → s.inImage (eaw + 1) = false →
      Answers (.mstw rs base imm) s (StoreDone (wordCells eaw (s.reg rs)) s))

/-- xch and xchw: memory gets the old register value, the register waits for the old memory value
(45_memory_access.md R200, 45_memory_access.md R201, 92_eei_decisions.md D37). The swap is the spec's decision
D37: notes/assumptions/38.md. -/
def Obligations.ExchangesSwapRegisterAndMemory : Prop :=
  ∀ (rw base : Reg) (imm : BitVec 5) (s : State), AtSpecChoice s → Ready [base, rw] s →
    let ea := byteAddress (s.reg base) imm
    let eaw := wordAddress (s.reg base) imm
    EncodedAs (.xch rw base imm) 0xF800 0xF000 ∧ EncodedAs (.xchw rw base imm) 0xF800 0xF800 ∧
    (s.inImage ea = false →
      Answers (.xch rw base imm) s
        (ExchangeDone rw (BitVec.ofInt 16 (s.readByte ea).toInt) [(ea, (s.reg rw).extractLsb' 0 8)] s)) ∧
    (oddAddress eaw = true → Refuses (.xchw rw base imm) s .misalignedWord) ∧
    (oddAddress eaw = false → s.inImage eaw = false → s.inImage (eaw + 1) = false →
      Answers (.xchw rw base imm) s
        (ExchangeDone rw (s.readByte (eaw + 1) ++ s.readByte eaw) (wordCells eaw (s.reg rw)) s))

/-- A store or exchange that overlaps the program image has no step (20_memory.md R64, 45_memory_access.md
R195). The refusal is the spec's decision D21: notes/assumptions/25.md. -/
def Obligations.StoresIntoTheProgramImageAreRefused : Prop :=
  ∀ (r base : Reg) (imm : BitVec 5) (s : State), AtSpecChoice s → Ready [base, r] s →
    let ea := byteAddress (s.reg base) imm
    let eaw := wordAddress (s.reg base) imm
    (s.inImage ea = true → Refuses (.mst r base imm) s .storeToText ∧ Refuses (.xch r base imm) s .storeToText ∧
      Refuses (.mclr base imm) s .storeToText) ∧
    (oddAddress eaw = false → (s.inImage eaw || s.inImage (eaw + 1)) = true →
      Refuses (.mstw r base imm) s .storeToText ∧ Refuses (.xchw r base imm) s .storeToText ∧
      Refuses (.mclrw base imm) s .storeToText)

/-- mstw then mldw of the same address, once resolved, gives the stored word (20_memory.md R53, 20_memory.md
R62, 45_memory_access.md R202). Program order is the spec's decision D20: notes/assumptions/24.md. -/
def Obligations.StoredWordIsLoadedBack : Prop :=
  ∀ (rs rd base : Reg) (imm : BitVec 5) (s : State),
    AtSpecChoice s → Ready [rs, rd, base] s → rd ≠ .zr →
    oddAddress (wordAddress (s.reg base) imm) = false →
    s.inImage (wordAddress (s.reg base) imm) = false → s.inImage (wordAddress (s.reg base) imm + 1) = false →
    ∃ t u, exec (.mstw rs base imm) s = .next t ∧ exec (.mldw rd base imm) t = .next u ∧
      u.pending rd = true ∧ (u.resolve rd).reg rd = s.reg rs ∧ (u.resolve rd).pending rd = false

/-- resolve(i) writes the awaited value to the register, sets its bit, and changes nothing else (10_state.md
R29, 10_state.md R25). That resolution is a free step is the spec's decision D22 (notes/assumptions/26.md);
the event list that says when it happens, and the count of steps, are this model's own (7.md). -/
def Obligations.ResolveDeliversTheLoadedValue : Prop :=
  ∀ (r : Reg) (v : Word) (s : State), s.awaited r = some v →
    (s.resolve r).reg r = v ∧ (s.resolve r).pending r = false ∧
    RegsSameBut [r] s (s.resolve r) ∧ LoadsSameBut [r] s (s.resolve r) ∧
    (s.resolve r).flags = s.flags ∧ (s.resolve r).addr = s.addr ∧ RestSame s (s.resolve r) ∧
    (s.inputs.head? = some (.resolve r) → step s = .next (s.tick.resolve r))

/-- An instruction that reads a pending register makes no change of state (10_state.md R27, 30_encoding.md
R89). A hold is a step without change, and an unbound CSR is refused first, by this model:
notes/assumptions/8.md and 43.md. -/
def Obligations.PendingSourceHoldsTheInstruction : Prop :=
  ∀ (i : Instr) (r : Reg) (s : State), r ∈ sources i → s.pending r = true →
    (∀ rs csr, i = .csrw rs csr → csrNamed s.platform.csrMap csr ≠ none) →
    exec i s = .next s

/-- An instruction that would write a pending register it does not read raises the fault (10_state.md R28,
60_exceptions.md R284, 60_exceptions.md R285). The order of the checks is this model's:
notes/assumptions/26.md and 43.md. -/
def Obligations.PendingDestinationRaisesTheFault : Prop :=
  ∀ (i : Instr) (rd : Reg) (s : State), destination i = some rd → Ready (sources i) s → s.pending rd = true →
    (∀ d a b, i = .szr d a b → s.params.szrRoles = .firstIsValue ∧ s.reg b = 0) →
    (∀ d csr, i = .csrr d csr ∨ i = .ip d csr → csrNamed s.platform.csrMap csr ≠ none) →
    Raises i s (.pendingWrite rd) ∧
    (s.platform.trapEntry = none → exec i s = .fault (.trap (.pendingWrite rd) s.addr))

/-- Without TRAP_ENTRY bkpt and sysc end the run with their cause and address (60_exceptions.md R284,
46_system.md R218, 46_system.md R220). The spec's decision D24: notes/assumptions/30.md. -/
def Obligations.TrapsEndTheRunWithoutATrapEntry : Prop :=
  ∀ (x : BitVec 8) (cause : Cause) (s : State), s.platform.trapEntry = none →
    exec .bkpt s = .fault (.trap .breakpoint s.addr) ∧
    exec (.sysc x) s = .fault (.trap (.systemCall x) s.addr) ∧
    takeTrap cause s = .fault (.trap cause s.addr)

/-- With a TRAP_ENTRY bkpt and sysc save rp, set ira and go to the handler, wait for the loads the platform
names, or are refused at a bad address (60_exceptions.md R289, 60_exceptions.md R290, 60_exceptions.md R283,
60_exceptions.md R291, 46_system.md R223, 20_memory.md R57, 20_memory.md R64). The form of the platform's
record, which loads an entry can wait for and what it reads of a pending register are this model's:
notes/assumptions/31.md and 45.md. That an odd save address or one in the program image refuses the entry is
decisions D18 and D21 carried over to it by this model: 22.md and 25.md. That the entry completes no waiting
TLB flush is this model's choice, as R223 does not say whether a trap counts as a jump: 36.md. `u` is what the
platform's further writes leave. -/
def Obligations.BreakpointAndSystemCallEnterTheTrap : Prop :=
  ∀ (e : TrapEntry) (x : BitVec 8) (s : State), AtSpecChoice s → s.platform.trapEntry = some e →
    EntryRule e.onBreakpoint .breakpoint (if e.onBreakpoint.skips then s.addr + 2 else s.addr) s (exec .bkpt s) ∧
    EntryRule e.onSystemCall (.systemCall x) (if e.onSystemCall.skips then s.addr + 2 else s.addr) s
      (exec (.sysc x) s) ∧
    TrapExpr.value (Cause.systemCall x).info s .info = .ok (BitVec.ofNat 16 x.toNat)

/-- With a TRAP_ENTRY the fault of a pending write enters the handler and writes nothing else, for every
instruction that raises it (60_exceptions.md R283, 60_exceptions.md R289, 60_exceptions.md R291, 10_state.md
R28, 46_system.md R223, 20_memory.md R57, 20_memory.md R64). The form of the platform's record, which loads an
entry can wait for and what it reads of a pending register are this model's: notes/assumptions/31.md and
45.md. That an odd save address or one in the program image refuses the entry is decisions D18 and D21 carried
over to it by this model: 22.md and 25.md. That the entry completes no waiting TLB flush is this model's
choice, as R223 does not say whether a trap counts as a jump: 36.md. `u` is what the platform's further writes
leave. -/
def Obligations.PendingWriteFaultEntersTheTrap : Prop :=
  ∀ (e : TrapEntry) (i : Instr) (rd : Reg) (s : State), AtSpecChoice s → s.platform.trapEntry = some e →
    destination i = some rd → Ready (sources i) s → s.pending rd = true →
    (∀ d a b, i = .szr d a b → s.reg b = 0) →
    (∀ d csr, i = .csrr d csr ∨ i = .ip d csr → csrNamed s.platform.csrMap csr ≠ none) →
    EntryRule e.onFault (.pendingWrite rd) (if e.onFault.skips then s.addr + 2 else s.addr) s (exec i s)

/-- A pending interrupt that is not masked, taken between instructions, enters the trap with ira the next
instruction (60_exceptions.md R286, 60_exceptions.md R289, 60_exceptions.md R290, 60_exceptions.md R291,
46_system.md R223, 20_memory.md R57, 20_memory.md R64). The events are this model's form of decision D42; that
an interrupt can be taken while the instruction is held on a pending register (R27 does not say), that pen is
free after the entry, the form of the platform's record, which loads an entry can wait for and what it reads
of a pending register are its own: notes/assumptions/31.md, 33.md and 45.md. That an odd save address or one
in the program image refuses the entry is decisions D18 and D21 carried over to it by this model: 22.md and
25.md. That the entry completes no waiting TLB flush is this model's choice, as R223 does not say whether a
trap counts as a jump: 36.md. -/
def Obligations.InterruptIsTakenBetweenInstructions : Prop :=
  ∀ (e : TrapEntry) (s : State), AtSpecChoice s → s.platform.trapEntry = some e →
    s.platform.interruptSource = true → s.pen = true → s.inputs.head? = some .take →
    (s.masked = false → s.entering = none → EntryRule e.onInterrupt .interrupt s.addr s.tick (step s)) ∧
    (s.masked = true ∨ s.entering ≠ none → step s = proceed s.tick)

/-- rfi goes to ira, with rp, flags and the interrupt mask as TRAP_RETURN says; held on a pending register it
reads; refused without one (46_system.md R224, 60_exceptions.md R292, 10_state.md R27, 10_state.md R28,
46_system.md R223, 20_memory.md R57, 92_eei_decisions.md D18). The form of the platform's record and the order
of the checks are this model's: notes/assumptions/32.md and 43.md. That an odd reload address refuses rfi is
decision D18 carried over to a trap return by this model: 22.md. That rfi completes no waiting TLB flush is
its choice, as R223 does not say whether it counts as a jump: 36.md. -/
def Obligations.RfiReturnsToTheInterruptedProgram : Prop :=
  ∀ (s : State), AtSpecChoice s →
    (s.platform.trapReturn = none → Refuses .rfi s .noTrapReturn) ∧
    (∀ r : TrapReturn, s.platform.trapReturn = some r →
      (∀ q ∈ r.sources, s.pending q = true → exec .rfi s = .next s) ∧
      (Ready r.sources s → (∃ q ∈ r.targets, s.pending q = true) →
        ∃ q ∈ r.targets, s.pending q = true ∧ Raises .rfi s (.pendingWrite q)) ∧
      (Ready r.sources s → Ready r.targets s → ∀ u : State,
        applyWrites 0 s r.writes { s with flags := if r.restoresFlags then s.savedFlags else s.flags } = .ok u →
        (r.rpReload = none → Answers .rfi s (Returned r (u.reg .rp) u s)) ∧
        (∀ p a, r.rpReload = some p → p.value 0 s = .ok a →
          (oddAddress a = true → Refuses .rfi s .misalignedWord) ∧
          (oddAddress a = false → Answers .rfi s (Returned r (s.readWord a) u s)))))

/-- wfi goes on when an interrupt is pending, waits while one can come, else the run ends as Sleeping
(46_system.md R225, 60_exceptions.md R293). The spec's decision D34: notes/assumptions/34.md. -/
def Obligations.WfiWaitsForAPendingInterrupt : Prop :=
  ∀ (s : State),
    (s.pen = true → Answers .wfi s (OnlyAdvanced s)) ∧
    (s.pen = false → s.platform.interruptSource = true → exec .wfi s = .next s) ∧
    (s.pen = false → s.platform.interruptSource = false → exec .wfi s = .fault (.sleeping s.addr))

/-- fence is held while any register is pending and then only advances ip, with no store outstanding
(46_system.md R222, 20_memory.md R63, 70_reset_and_hazards.md R320). The spec's decision D40:
notes/assumptions/39.md. -/
def Obligations.FenceCompletesOnlyWithNothingPending : Prop :=
  ∀ (s : State),
    (∀ r, s.pending r = true → exec .fence s = .next s) ∧
    ((∀ r, s.pending r = false) →
      Answers .fence s (fun t => OnlyAdvanced { s with unfenced := [] } t ∧ ∀ r, t.pending r = false))

/-- ftlb only marks the flush; the next taken jump empties the TLB (46_system.md R223, 70_reset_and_hazards.md
R324). R223 says what a taken jump is; of a branch that is not taken its prose says that it is not stated:
notes/assumptions/36.md. -/
def Obligations.TlbFlushWaitsForTheNextTakenJump : Prop :=
  ∀ (s : State),
    Answers .ftlb s (fun t => t.flushPending = true ∧ t.tlb = s.tlb ∧ t.addr = s.addr + 2 ∧ t.flags = s.flags ∧
      RegsSameBut [] s t ∧ LoadsSameBut [] s t ∧ MemorySameBut [] s t ∧ SpecialsSame s t ∧ OutsideSame s t) ∧
    (∀ imm : BitVec 11, s.flushPending = true → BitVec.ofNat 16 (imm.toNat * 32) ≠ s.addr + 2 →
      Answers (.jmp imm) s (fun t => t.tlb = [] ∧ t.flushPending = false)) ∧
    (∀ (cond : Cond) (imm : BitVec 8), holds cond s.flags = false →
      Answers (.brh cond imm) s (fun t => t.tlb = s.tlb ∧ t.flushPending = s.flushPending))

/-- scf sets c, rscf clears c; s, z and everything else are unchanged (46_system.md R226, 46_system.md R227,
92_eei_decisions.md D39). That s and z stay is the spec's decision D39: notes/assumptions/39.md. -/
def Obligations.ScfAndRscfSetOnlyTheCarryFlag : Prop :=
  ∀ (s : State),
    Answers .scf s (RegisterWritten .zr 0 (some true) (some s.flags.s) (some s.flags.z) s) ∧
    encode .scf = 0xB810 ∧ decode 0xB810 = .ok .scf ∧
    Answers .rscf s (RegisterWritten .zr 0 (some false) (some s.flags.s) (some s.flags.z) s) ∧
    encode .rscf = 0xB820 ∧ decode 0xB820 = .ok .rscf

/-- csrr: ip reads A + 2, fl its flags with a free bit 3, ira its word; an unbound number is refused
(46_system.md R216, 47_pseudo_and_directives.md R248, 92_eei_decisions.md D4, 92_eei_decisions.md D12). What
ip reads as and the bit places of fl are the spec's decisions D4 and D12: notes/assumptions/12.md and 17.md.
-/
def Obligations.CsrrReadsTheBoundRegister : Prop :=
  ∀ (rd : Reg) (csr : BitVec 6) (s : State), s.params = Params.spec →
    ∀ i ∈ [Instr.csrr rd csr, Instr.ip rd csr],
    let done := fun v => RegisterWritten rd v (some s.flags.c) (some s.flags.s) (some s.flags.z) s
    EncodedAs i 0xF8C0 0x1800 ∧
    (csrNamed s.platform.csrMap csr = none → Refuses i s .unboundCsr) ∧
    (csrNamed s.platform.csrMap csr ≠ none → s.pending rd = true → Raises i s (.pendingWrite rd)) ∧
    (s.pending rd = false →
      (csrNamed s.platform.csrMap csr = some .ip → Answers i s (done (s.addr + 2))) ∧
      (csrNamed s.platform.csrMap csr = some .ira → Answers i s (done s.ira)) ∧
      (csrNamed s.platform.csrMap csr = some .fl → ∃ b : Bool, Answers i s (done (BitVec.ofNat 16
        (s.flags.c.toNat + 2 * s.flags.s.toNat + 4 * s.flags.z.toNat + 8 * b.toNat)))) ∧
      (csrNamed s.platform.csrMap csr ≠ none → ∃ v, Answers i s (done v)))

/-- csrw: 0 to pen clears the pending interrupt, fl takes bits 0 to 2; the undescribed writes are refused
(46_system.md R217, 60_exceptions.md R287, 92_eei_decisions.md D12, 92_eei_decisions.md D41, 20_memory.md
R66). The bit places are decision D12 (notes/assumptions/17.md), the refusals of pen with another value, ip,
ira and a read-only register decision D41. That a write to a bound virtual memory register is refused, which
R66 says only of an unbound number, and the interrupt interface write are this model's choice: 29.md. -/
def Obligations.CsrwWritesTheDescribedRegisters : Prop :=
  ∀ (rs : Reg) (csr : BitVec 6) (s : State), s.params = Params.spec →
    ∀ i, i = Instr.csrw rs csr ∨ (rs = .zr ∧ i = Instr.clri csr) →
    EncodedAs i 0xF8C0 0x1840 ∧
    (csrNamed s.platform.csrMap csr = none → Refuses i s .unboundCsr) ∧
    (Ready [rs] s →
      (csrNamed s.platform.csrMap csr = some .fl → Answers i s (RegisterWritten .zr 0
        (some ((s.reg rs).getLsbD 0)) (some ((s.reg rs).getLsbD 1)) (some ((s.reg rs).getLsbD 2)) s)) ∧
      (csrNamed s.platform.csrMap csr = some .pen → s.reg rs = 0 →
        Answers i s (CsrWritten false s.csrWord s)) ∧
      (csrNamed s.platform.csrMap csr = some .pen → s.reg rs ≠ 0 → Refuses i s .unspecifiedCsrWrite) ∧
      (csrNamed s.platform.csrMap csr = some .interruptInterface →
        Answers i s (CsrWritten s.pen (fun k => if k = csr then s.reg rs else s.csrWord k) s)) ∧
      (∀ name ∈ [Csr.ip, Csr.ira, Csr.readOnly, Csr.vmConfig], csrNamed s.platform.csrMap csr = some name →
        Refuses i s .unspecifiedCsrWrite))

/-- The reserved rows decode to themselves and are refused by name (30_encoding.md R101, 30_encoding.md R102,
30_encoding.md R103, 46_system.md R228). The refusals are the spec's decision D35: notes/assumptions/41.md. -/
def Obligations.ReservedRowsHaveNoStep : Prop :=
  ∀ (rd : Reg) (fn : BitVec 2) (rs1 rs2 : Reg) (imm : BitVec 8) (s : State),
    decode (encode (.reserved01111 rd fn rs1 rs2)) = .ok (.reserved01111 rd fn rs1 rs2) ∧
    EncodedAs (.reserved01111 rd fn rs1 rs2) 0xF800 0x7800 ∧
    Refuses (.reserved01111 rd fn rs1 rs2) s .reservedOpcode ∧
    decode 0xB840 = .ok .reservedB840 ∧ Refuses .reservedB840 s .reservedControlFlag ∧
    decode 0xB880 = .ok .reservedB880 ∧ Refuses .reservedB880 s .reservedControlFlag ∧
    Refuses (.reservedBrhCond011 imm) s .reservedCondition ∧
    Refuses (.reservedBrhCond111 imm) s .reservedCondition

/-- The decoder rejects exactly the jump words whose flags field has no meaning (30_encoding.md R102,
30_encoding.md R104, 30_encoding.md R106). The refusals are the spec's decisions D35 and D36:
notes/assumptions/37.md and 41.md. -/
def Obligations.RejectedWordsAreExactlyTheUnassignedFlags : Prop :=
  ∀ w : Word,
    (decode w = .error .unspecifiedJumpFlags ↔
      (w &&& 0xF000 = 0xB000 ∧ w &&& 0x0700 ≠ 0 ∧ w &&& 0x00FF ≠ 0)) ∧
    (decode w = .error .reservedControlFlag ↔
      (w &&& 0xFF00 = 0xB800 ∧ w &&& 0x00FF &&& ((w &&& 0x00FF) - 1) ≠ 0)) ∧
    decode w ≠ .error .truncated

/-- Decoding the bytes of any well-formed instruction gives its base instruction back (30_encoding.md R80 to
R93, 47_pseudo_and_directives.md R240). The byte order of an instruction word is the spec's decision D2:
notes/assumptions/10.md and 40.md. -/
def Obligations.DecodeInvertsEncode : Prop :=
  ∀ i : Instr, i.wf = true → decodeBytes (wordBytes (encode i)) = .ok (i.base, [])

/-- Every word the decoder accepts is a well-formed base instruction whose word it is (30_encoding.md R91,
30_encoding.md R93, 30_encoding.md R106). -/
def Obligations.EveryAcceptedWordIsEncodedBack : Prop :=
  ∀ (w : Word) (i : Instr), decode w = .ok i → i.wf = true ∧ i.base = i ∧ encode i = w

/-- Words written out by the spec decode to the instructions they stand for (95_test_vectors.md L1.5, L2.1 to
L2.8, 30_encoding.md R92). -/
def Obligations.SpecWordsDecodeToTheirInstructions : Prop :=
  decode 0x070A = .ok (.add .t2 .rp .sp) ∧ decode 0x0BFB = .ok (.addi .x1 0xFB) ∧
  decode 0x2325 = .ok (.szr .x1 .x2 .x3) ∧ decode 0x6BA4 = .ok (.brr .x1 .x2 4) ∧
  decode 0x8B12 = .ok (.lui .x1 0x12) ∧ decode 0xC6FD = .ok (.brh .nz 0xFD) ∧
  decode 0xDB1A = .ok (.mldw .x1 .sp 3) ∧ decode 0x1B41 = .ok (.csrw .x1 1) ∧
  decode 0xB007 = .ok (.sysc 7) ∧ decode 0xB801 = .ok .fence ∧ decode 0xB800 = .ok (.jmpdl .zr)

/-- A step runs the instruction at ip, or refuses a rejected word by name (20_memory.md R54, 20_memory.md R64,
30_encoding.md R93, 30_encoding.md R100). The events and the counters are this model's own
(notes/assumptions/7.md), the byte order is the spec's decision D2 (10.md). That the bytes run are those
memory holds now, also bytes stored outside the program image, is this model's choice, as R64 does not say
whether a fetch sees a store: 25.md. -/
def Obligations.StepRunsTheDecodedInstruction : Prop :=
  ∀ s : State, AtSpecChoice s → s.entering = none → (s.quiet = true ∨ s.inputs.head? = some .run) →
    (∀ i, decodeBytes [s.readByte s.addr, s.readByte (s.addr + 1)] = .ok (i, []) → step s = exec i s.tick) ∧
    (∀ why, decodeBytes [s.readByte s.addr, s.readByte (s.addr + 1)] = .error why →
      step s = .refused (rejection why)) ∧
    s.tick = { s with inputs := s.inputs.tail, clock := s.clock + 1 }

/-- Each step is the instruction at ip, a trap entry that waits, a resolve of a pending register, or an
interrupt event of a platform that has one (10_state.md R29, 60_exceptions.md R286, 60_exceptions.md R291,
92_eei_decisions.md D42). The events are this model's form of R29 and decision D42, and so are an entry that
waits and an interrupt taken while an instruction is held: notes/assumptions/7.md, 33.md and 45.md. -/
def Obligations.EveryStepIsAnInstructionOrAPossibleEvent : Prop :=
  ∀ s : State,
    let goesOn := (s.entering = none ∧ step s = runInstruction s.tick) ∨
      ∃ cause, s.entering = some cause ∧ step s = takeTrap cause s.tick
    (goesOn ∨
      (∃ r, s.pending r = true ∧ step s = .next (s.tick.resolve r)) ∨
      (s.platform.interruptSource = true ∧ step s = .next { s.tick with pen := true }) ∨
      (s.platform.interruptSource = true ∧ s.pen = true ∧ s.masked = false ∧ s.entering = none ∧
        step s = takeTrap .interrupt s.tick)) ∧
    ((∀ r, s.pending r = false) → s.platform.interruptSource = false → goesOn)

/-- Every step keeps memory in its canonical form (20_memory.md R50). The canonical form is this model's:
notes/assumptions/5.md. -/
def Obligations.StepKeepsMemoryCanonical : Prop :=
  ∀ s t : State, Memory.wf s.mem = true → step s = .next t →
    Memory.wf t.mem = true ∧ t.code = s.code

/-- Memory after reset is in canonical form (20_memory.md R50, 10_state.md R38). The canonical form is this
model's: notes/assumptions/5.md. -/
def Obligations.ResetMemoryIsCanonical : Prop :=
  Memory.wf State.reset.mem = true ∧ Memory.wf State.reset.code = true

/-- No step, trap entry included, changes a byte of the program image or the image itself (20_memory.md R64,
60_exceptions.md R301). The refusal of stores to text is the spec's decision D21: notes/assumptions/25.md. -/
def Obligations.StepNeverChangesTheProgramText : Prop :=
  ∀ s t : State, step s = .next t →
    t.image = s.image ∧ t.params = s.params ∧ t.platform = s.platform ∧
    (s.params.fetchCoherence = .refuse → s.params.memUnified = true →
      ∀ a : Word, s.inImage a = true → t.readByte a = s.readByte a)

/-- No instruction changes a register that is not its destination (10_state.md R23, 10_state.md R22). -/
def Obligations.OnlyTheDestinationRegisterChanges : Prop :=
  ∀ (i : Instr) (s t : State) (r : Reg), exec i s = .next t → i ≠ .rfi → s.platform.trapEntry = none →
    destination i ≠ some r → t.reg r = s.reg r

/-- Only stores, exchanges, trap entries and trap returns change memory (20_memory.md R51). -/
def Obligations.OnlyStoresChangeMemory : Prop :=
  ∀ (i : Instr) (s t : State) (a : Word), exec i s = .next t → storesToMemory i = false → i ≠ .rfi →
    s.platform.trapEntry = none → t.readByte a = s.readByte a

/-- The instructions of class FN leave fl unchanged (10_state.md R33). The classes are the spec's decision
D10: notes/assumptions/15.md. -/
def Obligations.ClassFnInstructionsLeaveTheFlags : Prop :=
  ∀ (i : Instr) (s t : State), leavesFlags i = true → exec i s = .next t →
    (∀ csr, (∃ rs, i = .csrw rs csr) ∨ i = .clri csr → csrNamed s.platform.csrMap csr ≠ some .fl) →
    (∀ e, s.platform.trapEntry = some e → EntryKeepsFlags e) → t.flags = s.flags

/-- An instruction that is no jump is held or ends with ip = A + 2 (10_state.md R31, 10_state.md R27). -/
def Obligations.InstructionsThatDoNotJumpAdvance : Prop :=
  ∀ (i : Instr) (s t : State), mayJump i = false → s.platform.trapEntry = none → exec i s = .next t →
    t = s ∨ t.addr = s.addr + 2

/-- Every pure pseudo-instruction does and encodes exactly what its base instruction does
(47_pseudo_and_directives.md R240, 30_encoding.md R93). Each is a constructor of this model:
notes/assumptions/40.md. -/
def Obligations.PseudoInstructionsBehaveAsTheirBase : Prop :=
  ∀ i : Instr, encode i = encode i.base ∧ ∀ s : State, exec i s = exec i.base s

/-- mov, test, neg, cmp, inc, dec and alloc give the results and flags of their rules
(47_pseudo_and_directives.md R241 to R247, 92_eei_decisions.md D8). The polarity of c after neg and cmp is the
spec's decision D8: notes/assumptions/14.md. -/
def Obligations.ArithmeticPseudosComplete : Prop :=
  ∀ (rd rs rs2 : Reg) (imm : BitVec 8) (s : State), s.params = Params.spec →
    ArithmeticRule (.mov rd rs) [rs] rd (s.reg rs) false s ∧
    EncodedAs (.mov rd rs) 0xF8C7 0x0000 ∧ encode (.mov .zr rs) = encode (.test rs) ∧
    encode (.mov .zr .zr) = encode .bkpt ∧ encode (.test .zr) = encode .bkpt ∧
    ArithmeticUpdate (.test rs) [rs] .zr (s.reg rs) false s ∧
    EncodedAs (.test rs) 0xFFC7 0x0000 ∧
    ArithmeticRule (.neg rd rs) [rs] rd (0 - s.reg rs) (decide (s.reg rs = 0)) s ∧
    EncodedAs (.neg rd rs) 0xF8F8 0x0080 ∧
    ArithmeticUpdate (.cmp rs rs2) [rs, rs2] .zr (s.reg rs - s.reg rs2)
      (decide ((s.reg rs2).toNat ≤ (s.reg rs).toNat)) s ∧
    EncodedAs (.cmp rs rs2) 0xFFC0 0x0080 ∧
    ArithmeticUpdate (.inc rd) [rd] rd (s.reg rd + 1) (decide (s.reg rd = 0xFFFF)) s ∧
    EncodedAs (.inc rd) 0xF8FF 0x0801 ∧
    ArithmeticUpdate (.dec rd) [rd] rd (s.reg rd - 1) (decide (s.reg rd ≠ 0)) s ∧
    EncodedAs (.dec rd) 0xF8FF 0x08FF ∧
    ArithmeticUpdate (.alloc imm) [.sp] .sp (s.reg .sp + BitVec.ofInt 16 imm.toInt)
      (decide (2 ^ 16 ≤ (s.reg .sp).toNat + (BitVec.ofInt 16 imm.toInt : Word).toNat)) s ∧
    EncodedAs (.alloc imm) 0xFF00 0x0A00

/-- sneg, spos and snez write 1 or 0 by the sign or the zero test of the register (47_pseudo_and_directives.md
R250 to R252, 92_eei_decisions.md D14). The exact comparison is the spec's decision D14:
notes/assumptions/18.md. -/
def Obligations.ComparisonPseudosComplete : Prop :=
  ∀ (rd rs : Reg) (s : State), s.params = Params.spec →
    FreeFlagsRule (.sneg rd rs) [rs] rd (if (s.reg rs).toInt < 0 then 1 else 0) s ∧
    EncodedAs (.sneg rd rs) 0xF8C7 0x1880 ∧
    FreeFlagsRule (.spos rd rs) [rs] rd (if 0 < (s.reg rs).toInt then 1 else 0) s ∧
    EncodedAs (.spos rd rs) 0xF8F8 0x1880 ∧
    FreeFlagsRule (.snez rd rs) [rs] rd (if s.reg rs ≠ 0 then 1 else 0) s ∧
    EncodedAs (.snez rd rs) 0xF8F8 0x18C0

/-- cut4, cut8, clrl, not, not8 and clr give the results of their rules (47_pseudo_and_directives.md R253 to
R258, 90_conflicts.md C3, 90_conflicts.md C5, 41_logic.md R138, 41_logic.md R140, 41_logic.md R141,
43_load_immediate.md R171). The register field of cut4, cut8, clrl and clr is the spec's resolution C3, the
full clear of clrl its resolution C5: notes/assumptions/40.md. -/
def Obligations.MaskPseudosComplete : Prop :=
  ∀ (rw : Reg) (s : State),
    LogicalUpdate (.cut4 rw) [rw] rw (BitVec.ofNat 16 ((s.reg rw).toNat % 16)) s ∧
    EncodedAs (.cut4 rw) 0xF8FF 0x400F ∧
    LogicalUpdate (.cut8 rw) [rw] rw (BitVec.ofNat 16 ((s.reg rw).toNat % 256)) s ∧
    EncodedAs (.cut8 rw) 0xF8FF 0x40FF ∧
    LogicalUpdate (.clrl rw) [rw] rw 0 s ∧ EncodedAs (.clrl rw) 0xF8FF 0x4000 ∧
    LogicalUpdate (.not rw) [rw] rw (~~~(s.reg rw)) s ∧ EncodedAs (.not rw) 0xF8FF 0x50FF ∧
    LogicalUpdate (.not8 rw) [rw] rw (s.reg rw ^^^ 0x00FF) s ∧ EncodedAs (.not8 rw) 0xF8FF 0x58FF ∧
    FreeFlagsRule (.clr rw) [] rw 0 s ∧ EncodedAs (.clr rw) 0xF8FF 0x8800

/-- ret, prfd, mclr and mclrw give the effects of their rules (47_pseudo_and_directives.md R259 to R262,
92_eei_decisions.md D6, 92_eei_decisions.md D18). That bit 0 is dropped and odd addresses are refused are the
spec's decisions D6 and D18: notes/assumptions/12.md and 22.md. -/
def Obligations.MemoryPseudosComplete : Prop :=
  ∀ (base : Reg) (imm : BitVec 5) (s : State), AtSpecChoice s →
    let ea := byteAddress (s.reg base) imm
    let eaw := wordAddress (s.reg base) imm
    encode .ret = 0xB100 ∧ (s.pending .rp = true → exec .ret s = .next s) ∧
    (s.pending .rp = false →
      Answers .ret s (fun t => JumpedTo (s.reg .rp) s t ∧ RegsSameBut [] s t)) ∧
    EncodedAs (.prfd base imm) 0xFF00 0xD800 ∧ EncodedAs (.mclr base imm) 0xFF00 0xE000 ∧
    EncodedAs (.mclrw base imm) 0xFF00 0xE800 ∧
    (Ready [base] s →
      Answers (.prfd base imm) s (OnlyAdvanced s) ∧
      (s.inImage ea = false → Answers (.mclr base imm) s (StoreDone [(ea, 0)] s)) ∧
      (oddAddress eaw = true → Refuses (.mclrw base imm) s .misalignedWord) ∧
      (oddAddress eaw = false → s.inImage eaw = false → s.inImage (eaw + 1) = false →
        Answers (.mclrw base imm) s (StoreDone [(eaw, 0), (eaw + 1, 0)] s)))

/-- u8 to u32 and i8 to i32 emit their number of bytes, the least significant first; reserve and ascii emit
their bytes (47_pseudo_and_directives.md R266, 47_pseudo_and_directives.md R267 to R274,
47_pseudo_and_directives.md R275, 47_pseudo_and_directives.md R276). The byte order is the spec's decision
D31; that a value out of range or a character without a code gives nothing is this model's choice:
notes/assumptions/42.md. -/
def Obligations.DirectivesEmitLittleEndian : Prop :=
  let number := fun (bytes : List (Option Byte)) => bytes.foldr (fun b n => (b.getD 0).toNat + 256 * n) 0
  let emits := fun (d : Directive) (n v : Nat) =>
    ∃ bytes, d.emit = some bytes ∧ bytes.length = n ∧ (∀ b ∈ bytes, b ≠ none) ∧ number bytes = v
  (∀ v : Nat, (v < 2 ^ 8 → emits (.u8 v) 1 v) ∧ (v < 2 ^ 16 → emits (.u16 v) 2 v) ∧
    (v < 2 ^ 24 → emits (.u24 v) 3 v) ∧ (v < 2 ^ 32 → emits (.u32 v) 4 v) ∧
    (2 ^ 8 ≤ v → Directive.emit (.u8 v) = none) ∧ (2 ^ 16 ≤ v → Directive.emit (.u16 v) = none) ∧
    (2 ^ 24 ≤ v → Directive.emit (.u24 v) = none) ∧ (2 ^ 32 ≤ v → Directive.emit (.u32 v) = none)) ∧
  (∀ v : Int,
    (-2 ^ 7 ≤ v → v < 2 ^ 7 → emits (.i8 v) 1 (v % 2 ^ 8).toNat) ∧
    (-2 ^ 15 ≤ v → v < 2 ^ 15 → emits (.i16 v) 2 (v % 2 ^ 16).toNat) ∧
    (-2 ^ 23 ≤ v → v < 2 ^ 23 → emits (.i24 v) 3 (v % 2 ^ 24).toNat) ∧
    (-2 ^ 31 ≤ v → v < 2 ^ 31 → emits (.i32 v) 4 (v % 2 ^ 32).toNat) ∧
    (v < -2 ^ 7 ∨ 2 ^ 7 ≤ v → Directive.emit (.i8 v) = none) ∧
    (v < -2 ^ 15 ∨ 2 ^ 15 ≤ v → Directive.emit (.i16 v) = none) ∧
    (v < -2 ^ 23 ∨ 2 ^ 23 ≤ v → Directive.emit (.i24 v) = none) ∧
    (v < -2 ^ 31 ∨ 2 ^ 31 ≤ v → Directive.emit (.i32 v) = none)) ∧
  (∀ size amt : Nat, Directive.emit (.reserve size (some amt)) = some (List.replicate (size * amt) none) ∧
    Directive.emit (.reserve size none) = some (List.replicate size none)) ∧
  (∀ (text : List Char) (sen : Option Byte),
    ((∀ ch ∈ text, ch.toNat < 128) → Directive.emit (.ascii text sen) =
      some (text.map (fun ch => some (BitVec.ofNat 8 ch.toNat)) ++ sen.toList.map some)) ∧
    ((∃ ch ∈ text, 128 ≤ ch.toNat) → Directive.emit (.ascii text sen) = none))

/-- After reset nothing is pending, no interrupt is pending, ip is RESET_IP or the start address, VM is the
identity, the TLB is empty, no flush waits (10_state.md R38, 70_reset_and_hazards.md R311, 60_exceptions.md
R301, 00_scope.md R7, 92_eei_decisions.md D27, 92_eei_decisions.md D28). Nothing pending, no interrupt pending
and ip are the spec's decision D27 (notes/assumptions/1.md to 4.md), VM as the identity its decision D28; the
absent record is R301 (28.md); the empty TLB and that no flush waits are this model's choice (36.md). -/
def Obligations.ResetStateOfTheSpec : Prop :=
  (∀ (params : Params) (platform : Platform) (start : BitVec 15),
    (∀ ip, platform.resetIp = some ip → (State.resetOf params platform start).ip = ip) ∧
    (platform.resetIp = none → (State.resetOf params platform start).ip = start) ∧
    (State.resetOf params platform start).params = params ∧
    (State.resetOf params platform start).platform = platform) ∧
  State.reset.addr = 0 ∧ State.reset.reg .zr = 0 ∧ (∀ r, State.reset.pending r = false) ∧ State.reset.pen = false ∧
  State.reset.tlb = [] ∧ State.reset.flushPending = false ∧ State.reset.image = [] ∧
  State.reset.params = Params.spec ∧ State.reset.platform = Platform.absent ∧
  ∀ a, State.reset.translate a = some a
end

