-- ==== Sys2Proof/Laws/Fields.lean ====
section
/-! SUPPORT. Each field of each format, read back from the word the format is built into (R81 to R88). -/

namespace Sys2Proof

@[simp] theorem Reg.ofBits_toBits (r : Reg) : Reg.ofBits r.toBits = r := by cases r <;> rfl

@[simp] theorem Reg.toBits_ofBits (b : BitVec 3) : (Reg.ofBits b).toBits = b := by
  revert b; decide

/-! Format of `wordR3`. -/

@[simp] theorem opcode_wordR3 (op : BitVec 5) (rd : Reg) (fn : BitVec 2) (rs1 rs2 : Reg) : opcode (wordR3 op rd fn rs1 rs2) = op := by
  refine BitVec.eq_of_getLsbD_eq fun j hj => ?_
  simp only [opcode, wordR3, BitVec.getLsbD_append, BitVec.getLsbD_extractLsb']
  interval_cases j <;> simp

@[simp] theorem regHi_wordR3 (op : BitVec 5) (rd : Reg) (fn : BitVec 2) (rs1 rs2 : Reg) : regHi (wordR3 op rd fn rs1 rs2) = rd := by
  rw [regHi]
  refine (congrArg Reg.ofBits (BitVec.eq_of_getLsbD_eq fun j hj => ?_)).trans (Reg.ofBits_toBits rd)
  simp only [wordR3, BitVec.getLsbD_append, BitVec.getLsbD_extractLsb']
  interval_cases j <;> simp

@[simp] theorem fnField_wordR3 (op : BitVec 5) (rd : Reg) (fn : BitVec 2) (rs1 rs2 : Reg) : fnField (wordR3 op rd fn rs1 rs2) = fn := by
  refine BitVec.eq_of_getLsbD_eq fun j hj => ?_
  simp only [fnField, wordR3, BitVec.getLsbD_append, BitVec.getLsbD_extractLsb']
  interval_cases j <;> simp

@[simp] theorem regMid_wordR3 (op : BitVec 5) (rd : Reg) (fn : BitVec 2) (rs1 rs2 : Reg) : regMid (wordR3 op rd fn rs1 rs2) = rs1 := by
  rw [regMid]
  refine (congrArg Reg.ofBits (BitVec.eq_of_getLsbD_eq fun j hj => ?_)).trans (Reg.ofBits_toBits rs1)
  simp only [wordR3, BitVec.getLsbD_append, BitVec.getLsbD_extractLsb']
  interval_cases j <;> simp

@[simp] theorem regLo_wordR3 (op : BitVec 5) (rd : Reg) (fn : BitVec 2) (rs1 rs2 : Reg) : regLo (wordR3 op rd fn rs1 rs2) = rs2 := by
  rw [regLo]
  refine (congrArg Reg.ofBits (BitVec.eq_of_getLsbD_eq fun j hj => ?_)).trans (Reg.ofBits_toBits rs2)
  simp only [wordR3, BitVec.getLsbD_append, BitVec.getLsbD_extractLsb']
  interval_cases j <;> simp

/-! Format of `wordI8`. -/

@[simp] theorem opcode_wordI8 (op : BitVec 5) (r : Reg) (imm : BitVec 8) : opcode (wordI8 op r imm) = op := by
  refine BitVec.eq_of_getLsbD_eq fun j hj => ?_
  simp only [opcode, wordI8, BitVec.getLsbD_append, BitVec.getLsbD_extractLsb']
  interval_cases j <;> simp

@[simp] theorem regHi_wordI8 (op : BitVec 5) (r : Reg) (imm : BitVec 8) : regHi (wordI8 op r imm) = r := by
  rw [regHi]
  refine (congrArg Reg.ofBits (BitVec.eq_of_getLsbD_eq fun j hj => ?_)).trans (Reg.ofBits_toBits r)
  simp only [wordI8, BitVec.getLsbD_append, BitVec.getLsbD_extractLsb']
  interval_cases j <;> simp

@[simp] theorem imm8Field_wordI8 (op : BitVec 5) (r : Reg) (imm : BitVec 8) : imm8Field (wordI8 op r imm) = imm := by
  refine BitVec.eq_of_getLsbD_eq fun j hj => ?_
  simp only [imm8Field, wordI8, BitVec.getLsbD_append, BitVec.getLsbD_extractLsb']
  interval_cases j <;> simp

/-! Format of `wordCsr`. -/

@[simp] theorem opcode_wordCsr (op : BitVec 5) (r : Reg) (fn : BitVec 2) (csr : BitVec 6) : opcode (wordCsr op r fn csr) = op := by
  refine BitVec.eq_of_getLsbD_eq fun j hj => ?_
  simp only [opcode, wordCsr, BitVec.getLsbD_append, BitVec.getLsbD_extractLsb']
  interval_cases j <;> simp

@[simp] theorem regHi_wordCsr (op : BitVec 5) (r : Reg) (fn : BitVec 2) (csr : BitVec 6) : regHi (wordCsr op r fn csr) = r := by
  rw [regHi]
  refine (congrArg Reg.ofBits (BitVec.eq_of_getLsbD_eq fun j hj => ?_)).trans (Reg.ofBits_toBits r)
  simp only [wordCsr, BitVec.getLsbD_append, BitVec.getLsbD_extractLsb']
  interval_cases j <;> simp

@[simp] theorem fnField_wordCsr (op : BitVec 5) (r : Reg) (fn : BitVec 2) (csr : BitVec 6) : fnField (wordCsr op r fn csr) = fn := by
  refine BitVec.eq_of_getLsbD_eq fun j hj => ?_
  simp only [fnField, wordCsr, BitVec.getLsbD_append, BitVec.getLsbD_extractLsb']
  interval_cases j <;> simp

@[simp] theorem csrField_wordCsr (op : BitVec 5) (r : Reg) (fn : BitVec 2) (csr : BitVec 6) : csrField (wordCsr op r fn csr) = csr := by
  refine BitVec.eq_of_getLsbD_eq fun j hj => ?_
  simp only [csrField, wordCsr, BitVec.getLsbD_append, BitVec.getLsbD_extractLsb']
  interval_cases j <;> simp

/-! Format of `wordSh`. -/

@[simp] theorem opcode_wordSh (op : BitVec 5) (rd : Reg) (sel : BitVec 1) (amt : BitVec 4) (rs : Reg) : opcode (wordSh op rd sel amt rs) = op := by
  refine BitVec.eq_of_getLsbD_eq fun j hj => ?_
  simp only [opcode, wordSh, BitVec.getLsbD_append, BitVec.getLsbD_extractLsb']
  interval_cases j <;> simp

@[simp] theorem regHi_wordSh (op : BitVec 5) (rd : Reg) (sel : BitVec 1) (amt : BitVec 4) (rs : Reg) : regHi (wordSh op rd sel amt rs) = rd := by
  rw [regHi]
  refine (congrArg Reg.ofBits (BitVec.eq_of_getLsbD_eq fun j hj => ?_)).trans (Reg.ofBits_toBits rd)
  simp only [wordSh, BitVec.getLsbD_append, BitVec.getLsbD_extractLsb']
  interval_cases j <;> simp

@[simp] theorem selField_wordSh (op : BitVec 5) (rd : Reg) (sel : BitVec 1) (amt : BitVec 4) (rs : Reg) : selField (wordSh op rd sel amt rs) = sel := by
  refine BitVec.eq_of_getLsbD_eq fun j hj => ?_
  simp only [selField, wordSh, BitVec.getLsbD_append, BitVec.getLsbD_extractLsb']
  interval_cases j
  simp

@[simp] theorem amtField_wordSh (op : BitVec 5) (rd : Reg) (sel : BitVec 1) (amt : BitVec 4) (rs : Reg) : amtField (wordSh op rd sel amt rs) = amt := by
  refine BitVec.eq_of_getLsbD_eq fun j hj => ?_
  simp only [amtField, wordSh, BitVec.getLsbD_append, BitVec.getLsbD_extractLsb']
  interval_cases j <;> simp

@[simp] theorem regLo_wordSh (op : BitVec 5) (rd : Reg) (sel : BitVec 1) (amt : BitVec 4) (rs : Reg) : regLo (wordSh op rd sel amt rs) = rs := by
  rw [regLo]
  refine (congrArg Reg.ofBits (BitVec.eq_of_getLsbD_eq fun j hj => ?_)).trans (Reg.ofBits_toBits rs)
  simp only [wordSh, BitVec.getLsbD_append, BitVec.getLsbD_extractLsb']
  interval_cases j <;> simp

/-! Format of `wordJ11`. -/

@[simp] theorem opcode_wordJ11 (op : BitVec 5) (imm : BitVec 11) : opcode (wordJ11 op imm) = op := by
  refine BitVec.eq_of_getLsbD_eq fun j hj => ?_
  simp only [opcode, wordJ11, BitVec.getLsbD_append, BitVec.getLsbD_extractLsb']
  interval_cases j <;> simp

@[simp] theorem imm11Field_wordJ11 (op : BitVec 5) (imm : BitVec 11) : imm11Field (wordJ11 op imm) = imm := by
  refine BitVec.eq_of_getLsbD_eq fun j hj => ?_
  simp only [imm11Field, wordJ11, BitVec.getLsbD_append, BitVec.getLsbD_extractLsb']
  interval_cases j <;> simp

/-! Format of `wordB`. -/

@[simp] theorem opcode_wordB (op : BitVec 5) (cond : BitVec 3) (imm : BitVec 8) : opcode (wordB op cond imm) = op := by
  refine BitVec.eq_of_getLsbD_eq fun j hj => ?_
  simp only [opcode, wordB, BitVec.getLsbD_append, BitVec.getLsbD_extractLsb']
  interval_cases j <;> simp

@[simp] theorem condField_wordB (op : BitVec 5) (cond : BitVec 3) (imm : BitVec 8) : condField (wordB op cond imm) = cond := by
  refine BitVec.eq_of_getLsbD_eq fun j hj => ?_
  simp only [condField, wordB, BitVec.getLsbD_append, BitVec.getLsbD_extractLsb']
  interval_cases j <;> simp

@[simp] theorem imm8Field_wordB (op : BitVec 5) (cond : BitVec 3) (imm : BitVec 8) : imm8Field (wordB op cond imm) = imm := by
  refine BitVec.eq_of_getLsbD_eq fun j hj => ?_
  simp only [imm8Field, wordB, BitVec.getLsbD_append, BitVec.getLsbD_extractLsb']
  interval_cases j <;> simp

/-! Format of `wordM`. -/

@[simp] theorem opcode_wordM (op : BitVec 5) (r : Reg) (imm : BitVec 5) (base : Reg) : opcode (wordM op r imm base) = op := by
  refine BitVec.eq_of_getLsbD_eq fun j hj => ?_
  simp only [opcode, wordM, BitVec.getLsbD_append, BitVec.getLsbD_extractLsb']
  interval_cases j <;> simp

@[simp] theorem regHi_wordM (op : BitVec 5) (r : Reg) (imm : BitVec 5) (base : Reg) : regHi (wordM op r imm base) = r := by
  rw [regHi]
  refine (congrArg Reg.ofBits (BitVec.eq_of_getLsbD_eq fun j hj => ?_)).trans (Reg.ofBits_toBits r)
  simp only [wordM, BitVec.getLsbD_append, BitVec.getLsbD_extractLsb']
  interval_cases j <;> simp

@[simp] theorem imm5Field_wordM (op : BitVec 5) (r : Reg) (imm : BitVec 5) (base : Reg) : imm5Field (wordM op r imm base) = imm := by
  refine BitVec.eq_of_getLsbD_eq fun j hj => ?_
  simp only [imm5Field, wordM, BitVec.getLsbD_append, BitVec.getLsbD_extractLsb']
  interval_cases j <;> simp

@[simp] theorem regLo_wordM (op : BitVec 5) (r : Reg) (imm : BitVec 5) (base : Reg) : regLo (wordM op r imm base) = base := by
  rw [regLo]
  refine (congrArg Reg.ofBits (BitVec.eq_of_getLsbD_eq fun j hj => ?_)).trans (Reg.ofBits_toBits base)
  simp only [wordM, BitVec.getLsbD_append, BitVec.getLsbD_extractLsb']
  interval_cases j <;> simp

end Sys2Proof
end

