-- ==== Sys2Proof/Laws/State.lean ====
section
/-! SUPPORT. What each update of the state does to each field, one lemma per field per update, so that no
later proof unfolds a record update. -/

namespace Sys2Proof.Machine

variable (s : State)

/-! setReg -/

@[simp] theorem State.setReg_regs (r : Reg) (v : Word) : (s.setReg r v).regs = s.regs.set r v := rfl
@[simp] theorem State.setReg_inflight (r : Reg) (v : Word) : (s.setReg r v).inflight = s.inflight := rfl
@[simp] theorem State.setReg_ip (r : Reg) (v : Word) : (s.setReg r v).ip = s.ip := rfl
@[simp] theorem State.setReg_flags (r : Reg) (v : Word) : (s.setReg r v).flags = s.flags := rfl
@[simp] theorem State.setReg_pen (r : Reg) (v : Word) : (s.setReg r v).pen = s.pen := rfl
@[simp] theorem State.setReg_ira (r : Reg) (v : Word) : (s.setReg r v).ira = s.ira := rfl
@[simp] theorem State.setReg_csrs (r : Reg) (v : Word) : (s.setReg r v).csrs = s.csrs := rfl
@[simp] theorem State.setReg_savedFlags (r : Reg) (v : Word) : (s.setReg r v).savedFlags = s.savedFlags := rfl
@[simp] theorem State.setReg_masked (r : Reg) (v : Word) : (s.setReg r v).masked = s.masked := rfl
@[simp] theorem State.setReg_entering (r : Reg) (v : Word) : (s.setReg r v).entering = s.entering := rfl
@[simp] theorem State.setReg_flushPending (r : Reg) (v : Word) : (s.setReg r v).flushPending = s.flushPending := rfl
@[simp] theorem State.setReg_tlb (r : Reg) (v : Word) : (s.setReg r v).tlb = s.tlb := rfl
@[simp] theorem State.setReg_mem (r : Reg) (v : Word) : (s.setReg r v).mem = s.mem := rfl
@[simp] theorem State.setReg_code (r : Reg) (v : Word) : (s.setReg r v).code = s.code := rfl
@[simp] theorem State.setReg_unfenced (r : Reg) (v : Word) : (s.setReg r v).unfenced = s.unfenced := rfl
@[simp] theorem State.setReg_image (r : Reg) (v : Word) : (s.setReg r v).image = s.image := rfl
@[simp] theorem State.setReg_params (r : Reg) (v : Word) : (s.setReg r v).params = s.params := rfl
@[simp] theorem State.setReg_platform (r : Reg) (v : Word) : (s.setReg r v).platform = s.platform := rfl
@[simp] theorem State.setReg_inputs (r : Reg) (v : Word) : (s.setReg r v).inputs = s.inputs := rfl
@[simp] theorem State.setReg_clock (r : Reg) (v : Word) : (s.setReg r v).clock = s.clock := rfl
@[simp] theorem State.setReg_draws (r : Reg) (v : Word) : (s.setReg r v).draws = s.draws := rfl

/-! startLoad -/

@[simp] theorem State.startLoad_regs (r : Reg) (v : Word) : (s.startLoad r v).regs = s.regs := rfl
@[simp] theorem State.startLoad_inflight (r : Reg) (v : Word) : (s.startLoad r v).inflight = s.inflight.set r (some v) := rfl
@[simp] theorem State.startLoad_ip (r : Reg) (v : Word) : (s.startLoad r v).ip = s.ip := rfl
@[simp] theorem State.startLoad_flags (r : Reg) (v : Word) : (s.startLoad r v).flags = s.flags := rfl
@[simp] theorem State.startLoad_pen (r : Reg) (v : Word) : (s.startLoad r v).pen = s.pen := rfl
@[simp] theorem State.startLoad_ira (r : Reg) (v : Word) : (s.startLoad r v).ira = s.ira := rfl
@[simp] theorem State.startLoad_csrs (r : Reg) (v : Word) : (s.startLoad r v).csrs = s.csrs := rfl
@[simp] theorem State.startLoad_savedFlags (r : Reg) (v : Word) : (s.startLoad r v).savedFlags = s.savedFlags := rfl
@[simp] theorem State.startLoad_masked (r : Reg) (v : Word) : (s.startLoad r v).masked = s.masked := rfl
@[simp] theorem State.startLoad_entering (r : Reg) (v : Word) : (s.startLoad r v).entering = s.entering := rfl
@[simp] theorem State.startLoad_flushPending (r : Reg) (v : Word) : (s.startLoad r v).flushPending = s.flushPending := rfl
@[simp] theorem State.startLoad_tlb (r : Reg) (v : Word) : (s.startLoad r v).tlb = s.tlb := rfl
@[simp] theorem State.startLoad_mem (r : Reg) (v : Word) : (s.startLoad r v).mem = s.mem := rfl
@[simp] theorem State.startLoad_code (r : Reg) (v : Word) : (s.startLoad r v).code = s.code := rfl
@[simp] theorem State.startLoad_unfenced (r : Reg) (v : Word) : (s.startLoad r v).unfenced = s.unfenced := rfl
@[simp] theorem State.startLoad_image (r : Reg) (v : Word) : (s.startLoad r v).image = s.image := rfl
@[simp] theorem State.startLoad_params (r : Reg) (v : Word) : (s.startLoad r v).params = s.params := rfl
@[simp] theorem State.startLoad_platform (r : Reg) (v : Word) : (s.startLoad r v).platform = s.platform := rfl
@[simp] theorem State.startLoad_inputs (r : Reg) (v : Word) : (s.startLoad r v).inputs = s.inputs := rfl
@[simp] theorem State.startLoad_clock (r : Reg) (v : Word) : (s.startLoad r v).clock = s.clock := rfl
@[simp] theorem State.startLoad_draws (r : Reg) (v : Word) : (s.startLoad r v).draws = s.draws := rfl

/-! setIp -/

@[simp] theorem State.setIp_regs (t : Word) : (s.setIp t).regs = s.regs := rfl
@[simp] theorem State.setIp_inflight (t : Word) : (s.setIp t).inflight = s.inflight := rfl
@[simp] theorem State.setIp_ip (t : Word) : (s.setIp t).ip = t.extractLsb' 1 15 := rfl
@[simp] theorem State.setIp_flags (t : Word) : (s.setIp t).flags = s.flags := rfl
@[simp] theorem State.setIp_pen (t : Word) : (s.setIp t).pen = s.pen := rfl
@[simp] theorem State.setIp_ira (t : Word) : (s.setIp t).ira = s.ira := rfl
@[simp] theorem State.setIp_csrs (t : Word) : (s.setIp t).csrs = s.csrs := rfl
@[simp] theorem State.setIp_savedFlags (t : Word) : (s.setIp t).savedFlags = s.savedFlags := rfl
@[simp] theorem State.setIp_masked (t : Word) : (s.setIp t).masked = s.masked := rfl
@[simp] theorem State.setIp_entering (t : Word) : (s.setIp t).entering = s.entering := rfl
@[simp] theorem State.setIp_flushPending (t : Word) : (s.setIp t).flushPending = s.flushPending := rfl
@[simp] theorem State.setIp_tlb (t : Word) : (s.setIp t).tlb = s.tlb := rfl
@[simp] theorem State.setIp_mem (t : Word) : (s.setIp t).mem = s.mem := rfl
@[simp] theorem State.setIp_code (t : Word) : (s.setIp t).code = s.code := rfl
@[simp] theorem State.setIp_unfenced (t : Word) : (s.setIp t).unfenced = s.unfenced := rfl
@[simp] theorem State.setIp_image (t : Word) : (s.setIp t).image = s.image := rfl
@[simp] theorem State.setIp_params (t : Word) : (s.setIp t).params = s.params := rfl
@[simp] theorem State.setIp_platform (t : Word) : (s.setIp t).platform = s.platform := rfl
@[simp] theorem State.setIp_inputs (t : Word) : (s.setIp t).inputs = s.inputs := rfl
@[simp] theorem State.setIp_clock (t : Word) : (s.setIp t).clock = s.clock := rfl
@[simp] theorem State.setIp_draws (t : Word) : (s.setIp t).draws = s.draws := rfl

/-! setFlags -/

@[simp] theorem State.setFlags_regs (f : Flags) : (s.setFlags f).regs = s.regs := rfl
@[simp] theorem State.setFlags_inflight (f : Flags) : (s.setFlags f).inflight = s.inflight := rfl
@[simp] theorem State.setFlags_ip (f : Flags) : (s.setFlags f).ip = s.ip := rfl
@[simp] theorem State.setFlags_flags (f : Flags) : (s.setFlags f).flags = f := rfl
@[simp] theorem State.setFlags_pen (f : Flags) : (s.setFlags f).pen = s.pen := rfl
@[simp] theorem State.setFlags_ira (f : Flags) : (s.setFlags f).ira = s.ira := rfl
@[simp] theorem State.setFlags_csrs (f : Flags) : (s.setFlags f).csrs = s.csrs := rfl
@[simp] theorem State.setFlags_savedFlags (f : Flags) : (s.setFlags f).savedFlags = s.savedFlags := rfl
@[simp] theorem State.setFlags_masked (f : Flags) : (s.setFlags f).masked = s.masked := rfl
@[simp] theorem State.setFlags_entering (f : Flags) : (s.setFlags f).entering = s.entering := rfl
@[simp] theorem State.setFlags_flushPending (f : Flags) : (s.setFlags f).flushPending = s.flushPending := rfl
@[simp] theorem State.setFlags_tlb (f : Flags) : (s.setFlags f).tlb = s.tlb := rfl
@[simp] theorem State.setFlags_mem (f : Flags) : (s.setFlags f).mem = s.mem := rfl
@[simp] theorem State.setFlags_code (f : Flags) : (s.setFlags f).code = s.code := rfl
@[simp] theorem State.setFlags_unfenced (f : Flags) : (s.setFlags f).unfenced = s.unfenced := rfl
@[simp] theorem State.setFlags_image (f : Flags) : (s.setFlags f).image = s.image := rfl
@[simp] theorem State.setFlags_params (f : Flags) : (s.setFlags f).params = s.params := rfl
@[simp] theorem State.setFlags_platform (f : Flags) : (s.setFlags f).platform = s.platform := rfl
@[simp] theorem State.setFlags_inputs (f : Flags) : (s.setFlags f).inputs = s.inputs := rfl
@[simp] theorem State.setFlags_clock (f : Flags) : (s.setFlags f).clock = s.clock := rfl
@[simp] theorem State.setFlags_draws (f : Flags) : (s.setFlags f).draws = s.draws := rfl

/-! drawn -/

@[simp] theorem State.drawn_regs : s.drawn.regs = s.regs := rfl
@[simp] theorem State.drawn_inflight : s.drawn.inflight = s.inflight := rfl
@[simp] theorem State.drawn_ip : s.drawn.ip = s.ip := rfl
@[simp] theorem State.drawn_flags : s.drawn.flags = s.flags := rfl
@[simp] theorem State.drawn_pen : s.drawn.pen = s.pen := rfl
@[simp] theorem State.drawn_ira : s.drawn.ira = s.ira := rfl
@[simp] theorem State.drawn_csrs : s.drawn.csrs = s.csrs := rfl
@[simp] theorem State.drawn_savedFlags : s.drawn.savedFlags = s.savedFlags := rfl
@[simp] theorem State.drawn_masked : s.drawn.masked = s.masked := rfl
@[simp] theorem State.drawn_entering : s.drawn.entering = s.entering := rfl
@[simp] theorem State.drawn_flushPending : s.drawn.flushPending = s.flushPending := rfl
@[simp] theorem State.drawn_tlb : s.drawn.tlb = s.tlb := rfl
@[simp] theorem State.drawn_mem : s.drawn.mem = s.mem := rfl
@[simp] theorem State.drawn_code : s.drawn.code = s.code := rfl
@[simp] theorem State.drawn_unfenced : s.drawn.unfenced = s.unfenced := rfl
@[simp] theorem State.drawn_image : s.drawn.image = s.image := rfl
@[simp] theorem State.drawn_params : s.drawn.params = s.params := rfl
@[simp] theorem State.drawn_platform : s.drawn.platform = s.platform := rfl
@[simp] theorem State.drawn_inputs : s.drawn.inputs = s.inputs := rfl
@[simp] theorem State.drawn_clock : s.drawn.clock = s.clock := rfl
@[simp] theorem State.drawn_draws : s.drawn.draws = s.draws + 1 := rfl

/-! loadDrawn -/

@[simp] theorem State.loadDrawn_regs : s.loadDrawn.regs = s.regs := rfl
@[simp] theorem State.loadDrawn_inflight : s.loadDrawn.inflight = s.inflight := rfl
@[simp] theorem State.loadDrawn_ip : s.loadDrawn.ip = s.ip := rfl
@[simp] theorem State.loadDrawn_flags : s.loadDrawn.flags = s.flags := rfl
@[simp] theorem State.loadDrawn_pen : s.loadDrawn.pen = s.pen := rfl
@[simp] theorem State.loadDrawn_ira : s.loadDrawn.ira = s.ira := rfl
@[simp] theorem State.loadDrawn_csrs : s.loadDrawn.csrs = s.csrs := rfl
@[simp] theorem State.loadDrawn_savedFlags : s.loadDrawn.savedFlags = s.savedFlags := rfl
@[simp] theorem State.loadDrawn_masked : s.loadDrawn.masked = s.masked := rfl
@[simp] theorem State.loadDrawn_entering : s.loadDrawn.entering = s.entering := rfl
@[simp] theorem State.loadDrawn_flushPending : s.loadDrawn.flushPending = s.flushPending := rfl
@[simp] theorem State.loadDrawn_tlb : s.loadDrawn.tlb = s.tlb := rfl
@[simp] theorem State.loadDrawn_mem : s.loadDrawn.mem = s.mem := rfl
@[simp] theorem State.loadDrawn_code : s.loadDrawn.code = s.code := rfl
@[simp] theorem State.loadDrawn_unfenced : s.loadDrawn.unfenced = s.unfenced := rfl
@[simp] theorem State.loadDrawn_image : s.loadDrawn.image = s.image := rfl
@[simp] theorem State.loadDrawn_params : s.loadDrawn.params = s.params := rfl
@[simp] theorem State.loadDrawn_platform : s.loadDrawn.platform = s.platform := rfl
@[simp] theorem State.loadDrawn_inputs : s.loadDrawn.inputs = s.inputs := rfl
@[simp] theorem State.loadDrawn_clock : s.loadDrawn.clock = s.clock := rfl
@[simp] theorem State.loadDrawn_draws : s.loadDrawn.draws = if s.params.memOrder = .fenced then s.draws + 1 else s.draws := rfl

/-! writeByte -/

@[simp] theorem State.writeByte_regs (a : Word) (v : Byte) : (s.writeByte a v).regs = s.regs := rfl
@[simp] theorem State.writeByte_inflight (a : Word) (v : Byte) : (s.writeByte a v).inflight = s.inflight := rfl
@[simp] theorem State.writeByte_ip (a : Word) (v : Byte) : (s.writeByte a v).ip = s.ip := rfl
@[simp] theorem State.writeByte_flags (a : Word) (v : Byte) : (s.writeByte a v).flags = s.flags := rfl
@[simp] theorem State.writeByte_pen (a : Word) (v : Byte) : (s.writeByte a v).pen = s.pen := rfl
@[simp] theorem State.writeByte_ira (a : Word) (v : Byte) : (s.writeByte a v).ira = s.ira := rfl
@[simp] theorem State.writeByte_csrs (a : Word) (v : Byte) : (s.writeByte a v).csrs = s.csrs := rfl
@[simp] theorem State.writeByte_savedFlags (a : Word) (v : Byte) : (s.writeByte a v).savedFlags = s.savedFlags := rfl
@[simp] theorem State.writeByte_masked (a : Word) (v : Byte) : (s.writeByte a v).masked = s.masked := rfl
@[simp] theorem State.writeByte_entering (a : Word) (v : Byte) : (s.writeByte a v).entering = s.entering := rfl
@[simp] theorem State.writeByte_flushPending (a : Word) (v : Byte) : (s.writeByte a v).flushPending = s.flushPending := rfl
@[simp] theorem State.writeByte_tlb (a : Word) (v : Byte) : (s.writeByte a v).tlb = s.tlb := rfl
@[simp] theorem State.writeByte_mem (a : Word) (v : Byte) : (s.writeByte a v).mem = Memory.write s.mem a.toNat v := rfl
@[simp] theorem State.writeByte_code (a : Word) (v : Byte) : (s.writeByte a v).code = s.code := rfl
@[simp] theorem State.writeByte_unfenced (a : Word) (v : Byte) : (s.writeByte a v).unfenced = s.unfenced := rfl
@[simp] theorem State.writeByte_image (a : Word) (v : Byte) : (s.writeByte a v).image = s.image := rfl
@[simp] theorem State.writeByte_params (a : Word) (v : Byte) : (s.writeByte a v).params = s.params := rfl
@[simp] theorem State.writeByte_platform (a : Word) (v : Byte) : (s.writeByte a v).platform = s.platform := rfl
@[simp] theorem State.writeByte_inputs (a : Word) (v : Byte) : (s.writeByte a v).inputs = s.inputs := rfl
@[simp] theorem State.writeByte_clock (a : Word) (v : Byte) : (s.writeByte a v).clock = s.clock := rfl
@[simp] theorem State.writeByte_draws (a : Word) (v : Byte) : (s.writeByte a v).draws = s.draws := rfl

/-! writeCodeByte -/

@[simp] theorem State.writeCodeByte_regs (a : Word) (v : Byte) : (s.writeCodeByte a v).regs = s.regs := rfl
@[simp] theorem State.writeCodeByte_inflight (a : Word) (v : Byte) : (s.writeCodeByte a v).inflight = s.inflight := rfl
@[simp] theorem State.writeCodeByte_ip (a : Word) (v : Byte) : (s.writeCodeByte a v).ip = s.ip := rfl
@[simp] theorem State.writeCodeByte_flags (a : Word) (v : Byte) : (s.writeCodeByte a v).flags = s.flags := rfl
@[simp] theorem State.writeCodeByte_pen (a : Word) (v : Byte) : (s.writeCodeByte a v).pen = s.pen := rfl
@[simp] theorem State.writeCodeByte_ira (a : Word) (v : Byte) : (s.writeCodeByte a v).ira = s.ira := rfl
@[simp] theorem State.writeCodeByte_csrs (a : Word) (v : Byte) : (s.writeCodeByte a v).csrs = s.csrs := rfl
@[simp] theorem State.writeCodeByte_savedFlags (a : Word) (v : Byte) : (s.writeCodeByte a v).savedFlags = s.savedFlags := rfl
@[simp] theorem State.writeCodeByte_masked (a : Word) (v : Byte) : (s.writeCodeByte a v).masked = s.masked := rfl
@[simp] theorem State.writeCodeByte_entering (a : Word) (v : Byte) : (s.writeCodeByte a v).entering = s.entering := rfl
@[simp] theorem State.writeCodeByte_flushPending (a : Word) (v : Byte) : (s.writeCodeByte a v).flushPending = s.flushPending := rfl
@[simp] theorem State.writeCodeByte_tlb (a : Word) (v : Byte) : (s.writeCodeByte a v).tlb = s.tlb := rfl
@[simp] theorem State.writeCodeByte_mem (a : Word) (v : Byte) : (s.writeCodeByte a v).mem = s.mem := rfl
@[simp] theorem State.writeCodeByte_code (a : Word) (v : Byte) : (s.writeCodeByte a v).code = Memory.write s.code a.toNat v := rfl
@[simp] theorem State.writeCodeByte_unfenced (a : Word) (v : Byte) : (s.writeCodeByte a v).unfenced = s.unfenced := rfl
@[simp] theorem State.writeCodeByte_image (a : Word) (v : Byte) : (s.writeCodeByte a v).image = s.image := rfl
@[simp] theorem State.writeCodeByte_params (a : Word) (v : Byte) : (s.writeCodeByte a v).params = s.params := rfl
@[simp] theorem State.writeCodeByte_platform (a : Word) (v : Byte) : (s.writeCodeByte a v).platform = s.platform := rfl
@[simp] theorem State.writeCodeByte_inputs (a : Word) (v : Byte) : (s.writeCodeByte a v).inputs = s.inputs := rfl
@[simp] theorem State.writeCodeByte_clock (a : Word) (v : Byte) : (s.writeCodeByte a v).clock = s.clock := rfl
@[simp] theorem State.writeCodeByte_draws (a : Word) (v : Byte) : (s.writeCodeByte a v).draws = s.draws := rfl

/-! writeWord -/

@[simp] theorem State.writeWord_regs (a v : Word) : (s.writeWord a v).regs = s.regs := rfl
@[simp] theorem State.writeWord_inflight (a v : Word) : (s.writeWord a v).inflight = s.inflight := rfl
@[simp] theorem State.writeWord_ip (a v : Word) : (s.writeWord a v).ip = s.ip := rfl
@[simp] theorem State.writeWord_flags (a v : Word) : (s.writeWord a v).flags = s.flags := rfl
@[simp] theorem State.writeWord_pen (a v : Word) : (s.writeWord a v).pen = s.pen := rfl
@[simp] theorem State.writeWord_ira (a v : Word) : (s.writeWord a v).ira = s.ira := rfl
@[simp] theorem State.writeWord_csrs (a v : Word) : (s.writeWord a v).csrs = s.csrs := rfl
@[simp] theorem State.writeWord_savedFlags (a v : Word) : (s.writeWord a v).savedFlags = s.savedFlags := rfl
@[simp] theorem State.writeWord_masked (a v : Word) : (s.writeWord a v).masked = s.masked := rfl
@[simp] theorem State.writeWord_entering (a v : Word) : (s.writeWord a v).entering = s.entering := rfl
@[simp] theorem State.writeWord_flushPending (a v : Word) : (s.writeWord a v).flushPending = s.flushPending := rfl
@[simp] theorem State.writeWord_tlb (a v : Word) : (s.writeWord a v).tlb = s.tlb := rfl
@[simp] theorem State.writeWord_mem (a v : Word) : (s.writeWord a v).mem = Memory.write (Memory.write s.mem a.toNat (lowByte v)) (a + 1).toNat (highByte v) := rfl
@[simp] theorem State.writeWord_code (a v : Word) : (s.writeWord a v).code = s.code := rfl
@[simp] theorem State.writeWord_unfenced (a v : Word) : (s.writeWord a v).unfenced = s.unfenced := rfl
@[simp] theorem State.writeWord_image (a v : Word) : (s.writeWord a v).image = s.image := rfl
@[simp] theorem State.writeWord_params (a v : Word) : (s.writeWord a v).params = s.params := rfl
@[simp] theorem State.writeWord_platform (a v : Word) : (s.writeWord a v).platform = s.platform := rfl
@[simp] theorem State.writeWord_inputs (a v : Word) : (s.writeWord a v).inputs = s.inputs := rfl
@[simp] theorem State.writeWord_clock (a v : Word) : (s.writeWord a v).clock = s.clock := rfl
@[simp] theorem State.writeWord_draws (a v : Word) : (s.writeWord a v).draws = s.draws := rfl

/-! recordStore -/

@[simp] theorem State.recordStore_regs (a : Word) : (s.recordStore a).regs = s.regs := rfl
@[simp] theorem State.recordStore_inflight (a : Word) : (s.recordStore a).inflight = s.inflight := rfl
@[simp] theorem State.recordStore_ip (a : Word) : (s.recordStore a).ip = s.ip := rfl
@[simp] theorem State.recordStore_flags (a : Word) : (s.recordStore a).flags = s.flags := rfl
@[simp] theorem State.recordStore_pen (a : Word) : (s.recordStore a).pen = s.pen := rfl
@[simp] theorem State.recordStore_ira (a : Word) : (s.recordStore a).ira = s.ira := rfl
@[simp] theorem State.recordStore_csrs (a : Word) : (s.recordStore a).csrs = s.csrs := rfl
@[simp] theorem State.recordStore_savedFlags (a : Word) : (s.recordStore a).savedFlags = s.savedFlags := rfl
@[simp] theorem State.recordStore_masked (a : Word) : (s.recordStore a).masked = s.masked := rfl
@[simp] theorem State.recordStore_entering (a : Word) : (s.recordStore a).entering = s.entering := rfl
@[simp] theorem State.recordStore_flushPending (a : Word) : (s.recordStore a).flushPending = s.flushPending := rfl
@[simp] theorem State.recordStore_tlb (a : Word) : (s.recordStore a).tlb = s.tlb := rfl
@[simp] theorem State.recordStore_mem (a : Word) : (s.recordStore a).mem = s.mem := rfl
@[simp] theorem State.recordStore_code (a : Word) : (s.recordStore a).code = s.code := rfl
@[simp] theorem State.recordStore_unfenced (a : Word) : (s.recordStore a).unfenced = if s.params.memOrder = .fenced then a :: s.unfenced else s.unfenced := rfl
@[simp] theorem State.recordStore_image (a : Word) : (s.recordStore a).image = s.image := rfl
@[simp] theorem State.recordStore_params (a : Word) : (s.recordStore a).params = s.params := rfl
@[simp] theorem State.recordStore_platform (a : Word) : (s.recordStore a).platform = s.platform := rfl
@[simp] theorem State.recordStore_inputs (a : Word) : (s.recordStore a).inputs = s.inputs := rfl
@[simp] theorem State.recordStore_clock (a : Word) : (s.recordStore a).clock = s.clock := rfl
@[simp] theorem State.recordStore_draws (a : Word) : (s.recordStore a).draws = s.draws := rfl

/-! setCsrWord -/

@[simp] theorem State.setCsrWord_regs (k : BitVec 6) (v : Word) : (s.setCsrWord k v).regs = s.regs := rfl
@[simp] theorem State.setCsrWord_inflight (k : BitVec 6) (v : Word) : (s.setCsrWord k v).inflight = s.inflight := rfl
@[simp] theorem State.setCsrWord_ip (k : BitVec 6) (v : Word) : (s.setCsrWord k v).ip = s.ip := rfl
@[simp] theorem State.setCsrWord_flags (k : BitVec 6) (v : Word) : (s.setCsrWord k v).flags = s.flags := rfl
@[simp] theorem State.setCsrWord_pen (k : BitVec 6) (v : Word) : (s.setCsrWord k v).pen = s.pen := rfl
@[simp] theorem State.setCsrWord_ira (k : BitVec 6) (v : Word) : (s.setCsrWord k v).ira = s.ira := rfl
@[simp] theorem State.setCsrWord_csrs (k : BitVec 6) (v : Word) : (s.setCsrWord k v).csrs = s.csrs.set k.toNat v k.isLt := rfl
@[simp] theorem State.setCsrWord_savedFlags (k : BitVec 6) (v : Word) : (s.setCsrWord k v).savedFlags = s.savedFlags := rfl
@[simp] theorem State.setCsrWord_masked (k : BitVec 6) (v : Word) : (s.setCsrWord k v).masked = s.masked := rfl
@[simp] theorem State.setCsrWord_entering (k : BitVec 6) (v : Word) : (s.setCsrWord k v).entering = s.entering := rfl
@[simp] theorem State.setCsrWord_flushPending (k : BitVec 6) (v : Word) : (s.setCsrWord k v).flushPending = s.flushPending := rfl
@[simp] theorem State.setCsrWord_tlb (k : BitVec 6) (v : Word) : (s.setCsrWord k v).tlb = s.tlb := rfl
@[simp] theorem State.setCsrWord_mem (k : BitVec 6) (v : Word) : (s.setCsrWord k v).mem = s.mem := rfl
@[simp] theorem State.setCsrWord_code (k : BitVec 6) (v : Word) : (s.setCsrWord k v).code = s.code := rfl
@[simp] theorem State.setCsrWord_unfenced (k : BitVec 6) (v : Word) : (s.setCsrWord k v).unfenced = s.unfenced := rfl
@[simp] theorem State.setCsrWord_image (k : BitVec 6) (v : Word) : (s.setCsrWord k v).image = s.image := rfl
@[simp] theorem State.setCsrWord_params (k : BitVec 6) (v : Word) : (s.setCsrWord k v).params = s.params := rfl
@[simp] theorem State.setCsrWord_platform (k : BitVec 6) (v : Word) : (s.setCsrWord k v).platform = s.platform := rfl
@[simp] theorem State.setCsrWord_inputs (k : BitVec 6) (v : Word) : (s.setCsrWord k v).inputs = s.inputs := rfl
@[simp] theorem State.setCsrWord_clock (k : BitVec 6) (v : Word) : (s.setCsrWord k v).clock = s.clock := rfl
@[simp] theorem State.setCsrWord_draws (k : BitVec 6) (v : Word) : (s.setCsrWord k v).draws = s.draws := rfl

/-! tick -/

@[simp] theorem State.tick_regs : s.tick.regs = s.regs := rfl
@[simp] theorem State.tick_inflight : s.tick.inflight = s.inflight := rfl
@[simp] theorem State.tick_ip : s.tick.ip = s.ip := rfl
@[simp] theorem State.tick_flags : s.tick.flags = s.flags := rfl
@[simp] theorem State.tick_pen : s.tick.pen = s.pen := rfl
@[simp] theorem State.tick_ira : s.tick.ira = s.ira := rfl
@[simp] theorem State.tick_csrs : s.tick.csrs = s.csrs := rfl
@[simp] theorem State.tick_savedFlags : s.tick.savedFlags = s.savedFlags := rfl
@[simp] theorem State.tick_masked : s.tick.masked = s.masked := rfl
@[simp] theorem State.tick_entering : s.tick.entering = s.entering := rfl
@[simp] theorem State.tick_flushPending : s.tick.flushPending = s.flushPending := rfl
@[simp] theorem State.tick_tlb : s.tick.tlb = s.tlb := rfl
@[simp] theorem State.tick_mem : s.tick.mem = s.mem := rfl
@[simp] theorem State.tick_code : s.tick.code = s.code := rfl
@[simp] theorem State.tick_unfenced : s.tick.unfenced = s.unfenced := rfl
@[simp] theorem State.tick_image : s.tick.image = s.image := rfl
@[simp] theorem State.tick_params : s.tick.params = s.params := rfl
@[simp] theorem State.tick_platform : s.tick.platform = s.platform := rfl
@[simp] theorem State.tick_inputs : s.tick.inputs = s.inputs.tail := rfl
@[simp] theorem State.tick_clock : s.tick.clock = s.clock + 1 := rfl
@[simp] theorem State.tick_draws : s.tick.draws = s.draws := rfl

/-! requestInterrupt -/

@[simp] theorem State.requestInterrupt_regs : s.requestInterrupt.regs = s.regs := rfl
@[simp] theorem State.requestInterrupt_inflight : s.requestInterrupt.inflight = s.inflight := rfl
@[simp] theorem State.requestInterrupt_ip : s.requestInterrupt.ip = s.ip := rfl
@[simp] theorem State.requestInterrupt_flags : s.requestInterrupt.flags = s.flags := rfl
@[simp] theorem State.requestInterrupt_pen : s.requestInterrupt.pen = true := rfl
@[simp] theorem State.requestInterrupt_ira : s.requestInterrupt.ira = s.ira := rfl
@[simp] theorem State.requestInterrupt_csrs : s.requestInterrupt.csrs = s.csrs := rfl
@[simp] theorem State.requestInterrupt_savedFlags : s.requestInterrupt.savedFlags = s.savedFlags := rfl
@[simp] theorem State.requestInterrupt_masked : s.requestInterrupt.masked = s.masked := rfl
@[simp] theorem State.requestInterrupt_entering : s.requestInterrupt.entering = s.entering := rfl
@[simp] theorem State.requestInterrupt_flushPending : s.requestInterrupt.flushPending = s.flushPending := rfl
@[simp] theorem State.requestInterrupt_tlb : s.requestInterrupt.tlb = s.tlb := rfl
@[simp] theorem State.requestInterrupt_mem : s.requestInterrupt.mem = s.mem := rfl
@[simp] theorem State.requestInterrupt_code : s.requestInterrupt.code = s.code := rfl
@[simp] theorem State.requestInterrupt_unfenced : s.requestInterrupt.unfenced = s.unfenced := rfl
@[simp] theorem State.requestInterrupt_image : s.requestInterrupt.image = s.image := rfl
@[simp] theorem State.requestInterrupt_params : s.requestInterrupt.params = s.params := rfl
@[simp] theorem State.requestInterrupt_platform : s.requestInterrupt.platform = s.platform := rfl
@[simp] theorem State.requestInterrupt_inputs : s.requestInterrupt.inputs = s.inputs := rfl
@[simp] theorem State.requestInterrupt_clock : s.requestInterrupt.clock = s.clock := rfl
@[simp] theorem State.requestInterrupt_draws : s.requestInterrupt.draws = s.draws := rfl

/-! advance -/

@[simp] theorem State.advance_regs : s.advance.regs = s.regs := rfl
@[simp] theorem State.advance_inflight : s.advance.inflight = s.inflight := rfl
@[simp] theorem State.advance_ip : s.advance.ip = (s.addr + 2).extractLsb' 1 15 := rfl
@[simp] theorem State.advance_flags : s.advance.flags = s.flags := rfl
@[simp] theorem State.advance_pen : s.advance.pen = s.pen := rfl
@[simp] theorem State.advance_ira : s.advance.ira = s.ira := rfl
@[simp] theorem State.advance_csrs : s.advance.csrs = s.csrs := rfl
@[simp] theorem State.advance_savedFlags : s.advance.savedFlags = s.savedFlags := rfl
@[simp] theorem State.advance_masked : s.advance.masked = s.masked := rfl
@[simp] theorem State.advance_entering : s.advance.entering = s.entering := rfl
@[simp] theorem State.advance_flushPending : s.advance.flushPending = s.flushPending := rfl
@[simp] theorem State.advance_tlb : s.advance.tlb = s.tlb := rfl
@[simp] theorem State.advance_mem : s.advance.mem = s.mem := rfl
@[simp] theorem State.advance_code : s.advance.code = s.code := rfl
@[simp] theorem State.advance_unfenced : s.advance.unfenced = s.unfenced := rfl
@[simp] theorem State.advance_image : s.advance.image = s.image := rfl
@[simp] theorem State.advance_params : s.advance.params = s.params := rfl
@[simp] theorem State.advance_platform : s.advance.platform = s.platform := rfl
@[simp] theorem State.advance_inputs : s.advance.inputs = s.inputs := rfl
@[simp] theorem State.advance_clock : s.advance.clock = s.clock := rfl
@[simp] theorem State.advance_draws : s.advance.draws = s.draws := rfl

/-! arithFlags -/

@[simp] theorem arithFlags_regs (t : Sum) : (arithFlags t s).regs = s.regs := rfl
@[simp] theorem arithFlags_inflight (t : Sum) : (arithFlags t s).inflight = s.inflight := rfl
@[simp] theorem arithFlags_ip (t : Sum) : (arithFlags t s).ip = s.ip := rfl
@[simp] theorem arithFlags_flags (t : Sum) : (arithFlags t s).flags = ⟨t.carry, t.sign s.params, zeroOf t.value⟩ := rfl
@[simp] theorem arithFlags_pen (t : Sum) : (arithFlags t s).pen = s.pen := rfl
@[simp] theorem arithFlags_ira (t : Sum) : (arithFlags t s).ira = s.ira := rfl
@[simp] theorem arithFlags_csrs (t : Sum) : (arithFlags t s).csrs = s.csrs := rfl
@[simp] theorem arithFlags_savedFlags (t : Sum) : (arithFlags t s).savedFlags = s.savedFlags := rfl
@[simp] theorem arithFlags_masked (t : Sum) : (arithFlags t s).masked = s.masked := rfl
@[simp] theorem arithFlags_entering (t : Sum) : (arithFlags t s).entering = s.entering := rfl
@[simp] theorem arithFlags_flushPending (t : Sum) : (arithFlags t s).flushPending = s.flushPending := rfl
@[simp] theorem arithFlags_tlb (t : Sum) : (arithFlags t s).tlb = s.tlb := rfl
@[simp] theorem arithFlags_mem (t : Sum) : (arithFlags t s).mem = s.mem := rfl
@[simp] theorem arithFlags_code (t : Sum) : (arithFlags t s).code = s.code := rfl
@[simp] theorem arithFlags_unfenced (t : Sum) : (arithFlags t s).unfenced = s.unfenced := rfl
@[simp] theorem arithFlags_image (t : Sum) : (arithFlags t s).image = s.image := rfl
@[simp] theorem arithFlags_params (t : Sum) : (arithFlags t s).params = s.params := rfl
@[simp] theorem arithFlags_platform (t : Sum) : (arithFlags t s).platform = s.platform := rfl
@[simp] theorem arithFlags_inputs (t : Sum) : (arithFlags t s).inputs = s.inputs := rfl
@[simp] theorem arithFlags_clock (t : Sum) : (arithFlags t s).clock = s.clock := rfl
@[simp] theorem arithFlags_draws (t : Sum) : (arithFlags t s).draws = s.draws := rfl

/-! logicFlags -/

@[simp] theorem logicFlags_regs (v : Word) : (logicFlags v s).regs = s.regs := rfl
@[simp] theorem logicFlags_inflight (v : Word) : (logicFlags v s).inflight = s.inflight := rfl
@[simp] theorem logicFlags_ip (v : Word) : (logicFlags v s).ip = s.ip := rfl
@[simp] theorem logicFlags_flags (v : Word) : (logicFlags v s).flags = ⟨s.logicCarry, signOf v, zeroOf v⟩ := rfl
@[simp] theorem logicFlags_pen (v : Word) : (logicFlags v s).pen = s.pen := rfl
@[simp] theorem logicFlags_ira (v : Word) : (logicFlags v s).ira = s.ira := rfl
@[simp] theorem logicFlags_csrs (v : Word) : (logicFlags v s).csrs = s.csrs := rfl
@[simp] theorem logicFlags_savedFlags (v : Word) : (logicFlags v s).savedFlags = s.savedFlags := rfl
@[simp] theorem logicFlags_masked (v : Word) : (logicFlags v s).masked = s.masked := rfl
@[simp] theorem logicFlags_entering (v : Word) : (logicFlags v s).entering = s.entering := rfl
@[simp] theorem logicFlags_flushPending (v : Word) : (logicFlags v s).flushPending = s.flushPending := rfl
@[simp] theorem logicFlags_tlb (v : Word) : (logicFlags v s).tlb = s.tlb := rfl
@[simp] theorem logicFlags_mem (v : Word) : (logicFlags v s).mem = s.mem := rfl
@[simp] theorem logicFlags_code (v : Word) : (logicFlags v s).code = s.code := rfl
@[simp] theorem logicFlags_unfenced (v : Word) : (logicFlags v s).unfenced = s.unfenced := rfl
@[simp] theorem logicFlags_image (v : Word) : (logicFlags v s).image = s.image := rfl
@[simp] theorem logicFlags_params (v : Word) : (logicFlags v s).params = s.params := rfl
@[simp] theorem logicFlags_platform (v : Word) : (logicFlags v s).platform = s.platform := rfl
@[simp] theorem logicFlags_inputs (v : Word) : (logicFlags v s).inputs = s.inputs := rfl
@[simp] theorem logicFlags_clock (v : Word) : (logicFlags v s).clock = s.clock := rfl
@[simp] theorem logicFlags_draws (v : Word) : (logicFlags v s).draws = s.draws + 1 := rfl

/-! freeFlags -/

@[simp] theorem freeFlags_regs (v : Word) : (freeFlags v s).regs = s.regs := rfl
@[simp] theorem freeFlags_inflight (v : Word) : (freeFlags v s).inflight = s.inflight := rfl
@[simp] theorem freeFlags_ip (v : Word) : (freeFlags v s).ip = s.ip := rfl
@[simp] theorem freeFlags_flags (v : Word) : (freeFlags v s).flags = s.fuFlags v := rfl
@[simp] theorem freeFlags_pen (v : Word) : (freeFlags v s).pen = s.pen := rfl
@[simp] theorem freeFlags_ira (v : Word) : (freeFlags v s).ira = s.ira := rfl
@[simp] theorem freeFlags_csrs (v : Word) : (freeFlags v s).csrs = s.csrs := rfl
@[simp] theorem freeFlags_savedFlags (v : Word) : (freeFlags v s).savedFlags = s.savedFlags := rfl
@[simp] theorem freeFlags_masked (v : Word) : (freeFlags v s).masked = s.masked := rfl
@[simp] theorem freeFlags_entering (v : Word) : (freeFlags v s).entering = s.entering := rfl
@[simp] theorem freeFlags_flushPending (v : Word) : (freeFlags v s).flushPending = s.flushPending := rfl
@[simp] theorem freeFlags_tlb (v : Word) : (freeFlags v s).tlb = s.tlb := rfl
@[simp] theorem freeFlags_mem (v : Word) : (freeFlags v s).mem = s.mem := rfl
@[simp] theorem freeFlags_code (v : Word) : (freeFlags v s).code = s.code := rfl
@[simp] theorem freeFlags_unfenced (v : Word) : (freeFlags v s).unfenced = s.unfenced := rfl
@[simp] theorem freeFlags_image (v : Word) : (freeFlags v s).image = s.image := rfl
@[simp] theorem freeFlags_params (v : Word) : (freeFlags v s).params = s.params := rfl
@[simp] theorem freeFlags_platform (v : Word) : (freeFlags v s).platform = s.platform := rfl
@[simp] theorem freeFlags_inputs (v : Word) : (freeFlags v s).inputs = s.inputs := rfl
@[simp] theorem freeFlags_clock (v : Word) : (freeFlags v s).clock = s.clock := rfl
@[simp] theorem freeFlags_draws (v : Word) : (freeFlags v s).draws = s.draws + 1 := rfl

/-! carryFlag -/

@[simp] theorem carryFlag_regs (c : Bool) : (carryFlag c s).regs = s.regs := rfl
@[simp] theorem carryFlag_inflight (c : Bool) : (carryFlag c s).inflight = s.inflight := rfl
@[simp] theorem carryFlag_ip (c : Bool) : (carryFlag c s).ip = s.ip := rfl
@[simp] theorem carryFlag_flags (c : Bool) : (carryFlag c s).flags = ⟨c, s.flags.s, s.flags.z⟩ := rfl
@[simp] theorem carryFlag_pen (c : Bool) : (carryFlag c s).pen = s.pen := rfl
@[simp] theorem carryFlag_ira (c : Bool) : (carryFlag c s).ira = s.ira := rfl
@[simp] theorem carryFlag_csrs (c : Bool) : (carryFlag c s).csrs = s.csrs := rfl
@[simp] theorem carryFlag_savedFlags (c : Bool) : (carryFlag c s).savedFlags = s.savedFlags := rfl
@[simp] theorem carryFlag_masked (c : Bool) : (carryFlag c s).masked = s.masked := rfl
@[simp] theorem carryFlag_entering (c : Bool) : (carryFlag c s).entering = s.entering := rfl
@[simp] theorem carryFlag_flushPending (c : Bool) : (carryFlag c s).flushPending = s.flushPending := rfl
@[simp] theorem carryFlag_tlb (c : Bool) : (carryFlag c s).tlb = s.tlb := rfl
@[simp] theorem carryFlag_mem (c : Bool) : (carryFlag c s).mem = s.mem := rfl
@[simp] theorem carryFlag_code (c : Bool) : (carryFlag c s).code = s.code := rfl
@[simp] theorem carryFlag_unfenced (c : Bool) : (carryFlag c s).unfenced = s.unfenced := rfl
@[simp] theorem carryFlag_image (c : Bool) : (carryFlag c s).image = s.image := rfl
@[simp] theorem carryFlag_params (c : Bool) : (carryFlag c s).params = s.params := rfl
@[simp] theorem carryFlag_platform (c : Bool) : (carryFlag c s).platform = s.platform := rfl
@[simp] theorem carryFlag_inputs (c : Bool) : (carryFlag c s).inputs = s.inputs := rfl
@[simp] theorem carryFlag_clock (c : Bool) : (carryFlag c s).clock = s.clock := rfl
@[simp] theorem carryFlag_draws (c : Bool) : (carryFlag c s).draws = s.draws := rfl

/-! Updates that go by cases: what they leave alone. -/

@[simp] theorem State.resolve_ip (r : Reg) : (s.resolve r).ip = s.ip := by unfold State.resolve; split <;> rfl
@[simp] theorem State.resolve_flags (r : Reg) : (s.resolve r).flags = s.flags := by unfold State.resolve; split <;> rfl
@[simp] theorem State.resolve_pen (r : Reg) : (s.resolve r).pen = s.pen := by unfold State.resolve; split <;> rfl
@[simp] theorem State.resolve_ira (r : Reg) : (s.resolve r).ira = s.ira := by unfold State.resolve; split <;> rfl
@[simp] theorem State.resolve_csrs (r : Reg) : (s.resolve r).csrs = s.csrs := by unfold State.resolve; split <;> rfl
@[simp] theorem State.resolve_savedFlags (r : Reg) : (s.resolve r).savedFlags = s.savedFlags := by unfold State.resolve; split <;> rfl
@[simp] theorem State.resolve_masked (r : Reg) : (s.resolve r).masked = s.masked := by unfold State.resolve; split <;> rfl
@[simp] theorem State.resolve_entering (r : Reg) : (s.resolve r).entering = s.entering := by unfold State.resolve; split <;> rfl
@[simp] theorem State.resolve_flushPending (r : Reg) : (s.resolve r).flushPending = s.flushPending := by unfold State.resolve; split <;> rfl
@[simp] theorem State.resolve_tlb (r : Reg) : (s.resolve r).tlb = s.tlb := by unfold State.resolve; split <;> rfl
@[simp] theorem State.resolve_mem (r : Reg) : (s.resolve r).mem = s.mem := by unfold State.resolve; split <;> rfl
@[simp] theorem State.resolve_code (r : Reg) : (s.resolve r).code = s.code := by unfold State.resolve; split <;> rfl
@[simp] theorem State.resolve_unfenced (r : Reg) : (s.resolve r).unfenced = s.unfenced := by unfold State.resolve; split <;> rfl
@[simp] theorem State.resolve_image (r : Reg) : (s.resolve r).image = s.image := by unfold State.resolve; split <;> rfl
@[simp] theorem State.resolve_params (r : Reg) : (s.resolve r).params = s.params := by unfold State.resolve; split <;> rfl
@[simp] theorem State.resolve_platform (r : Reg) : (s.resolve r).platform = s.platform := by unfold State.resolve; split <;> rfl
@[simp] theorem State.resolve_inputs (r : Reg) : (s.resolve r).inputs = s.inputs := by unfold State.resolve; split <;> rfl
@[simp] theorem State.resolve_clock (r : Reg) : (s.resolve r).clock = s.clock := by unfold State.resolve; split <;> rfl
@[simp] theorem State.resolve_draws (r : Reg) : (s.resolve r).draws = s.draws := by unfold State.resolve; split <;> rfl

@[simp] theorem State.jumpTo_regs (t : Word) : (s.jumpTo t).regs = s.regs := rfl
@[simp] theorem State.jumpTo_inflight (t : Word) : (s.jumpTo t).inflight = s.inflight := rfl
@[simp] theorem State.jumpTo_flags (t : Word) : (s.jumpTo t).flags = s.flags := rfl
@[simp] theorem State.jumpTo_pen (t : Word) : (s.jumpTo t).pen = s.pen := rfl
@[simp] theorem State.jumpTo_ira (t : Word) : (s.jumpTo t).ira = s.ira := rfl
@[simp] theorem State.jumpTo_csrs (t : Word) : (s.jumpTo t).csrs = s.csrs := rfl
@[simp] theorem State.jumpTo_savedFlags (t : Word) : (s.jumpTo t).savedFlags = s.savedFlags := rfl
@[simp] theorem State.jumpTo_masked (t : Word) : (s.jumpTo t).masked = s.masked := rfl
@[simp] theorem State.jumpTo_entering (t : Word) : (s.jumpTo t).entering = s.entering := rfl
@[simp] theorem State.jumpTo_mem (t : Word) : (s.jumpTo t).mem = s.mem := rfl
@[simp] theorem State.jumpTo_code (t : Word) : (s.jumpTo t).code = s.code := rfl
@[simp] theorem State.jumpTo_unfenced (t : Word) : (s.jumpTo t).unfenced = s.unfenced := rfl
@[simp] theorem State.jumpTo_image (t : Word) : (s.jumpTo t).image = s.image := rfl
@[simp] theorem State.jumpTo_params (t : Word) : (s.jumpTo t).params = s.params := rfl
@[simp] theorem State.jumpTo_platform (t : Word) : (s.jumpTo t).platform = s.platform := rfl
@[simp] theorem State.jumpTo_inputs (t : Word) : (s.jumpTo t).inputs = s.inputs := rfl
@[simp] theorem State.jumpTo_clock (t : Word) : (s.jumpTo t).clock = s.clock := rfl
@[simp] theorem State.jumpTo_draws (t : Word) : (s.jumpTo t).draws = s.draws := rfl

@[simp] theorem penAfterEntry_regs (cause : Cause) : (penAfterEntry cause s).regs = s.regs := by cases cause <;> rfl
@[simp] theorem penAfterEntry_inflight (cause : Cause) : (penAfterEntry cause s).inflight = s.inflight := by cases cause <;> rfl
@[simp] theorem penAfterEntry_ip (cause : Cause) : (penAfterEntry cause s).ip = s.ip := by cases cause <;> rfl
@[simp] theorem penAfterEntry_flags (cause : Cause) : (penAfterEntry cause s).flags = s.flags := by cases cause <;> rfl
@[simp] theorem penAfterEntry_ira (cause : Cause) : (penAfterEntry cause s).ira = s.ira := by cases cause <;> rfl
@[simp] theorem penAfterEntry_csrs (cause : Cause) : (penAfterEntry cause s).csrs = s.csrs := by cases cause <;> rfl
@[simp] theorem penAfterEntry_savedFlags (cause : Cause) : (penAfterEntry cause s).savedFlags = s.savedFlags := by cases cause <;> rfl
@[simp] theorem penAfterEntry_masked (cause : Cause) : (penAfterEntry cause s).masked = s.masked := by cases cause <;> rfl
@[simp] theorem penAfterEntry_entering (cause : Cause) : (penAfterEntry cause s).entering = s.entering := by cases cause <;> rfl
@[simp] theorem penAfterEntry_flushPending (cause : Cause) : (penAfterEntry cause s).flushPending = s.flushPending := by cases cause <;> rfl
@[simp] theorem penAfterEntry_tlb (cause : Cause) : (penAfterEntry cause s).tlb = s.tlb := by cases cause <;> rfl
@[simp] theorem penAfterEntry_mem (cause : Cause) : (penAfterEntry cause s).mem = s.mem := by cases cause <;> rfl
@[simp] theorem penAfterEntry_code (cause : Cause) : (penAfterEntry cause s).code = s.code := by cases cause <;> rfl
@[simp] theorem penAfterEntry_unfenced (cause : Cause) : (penAfterEntry cause s).unfenced = s.unfenced := by cases cause <;> rfl
@[simp] theorem penAfterEntry_image (cause : Cause) : (penAfterEntry cause s).image = s.image := by cases cause <;> rfl
@[simp] theorem penAfterEntry_params (cause : Cause) : (penAfterEntry cause s).params = s.params := by cases cause <;> rfl
@[simp] theorem penAfterEntry_platform (cause : Cause) : (penAfterEntry cause s).platform = s.platform := by cases cause <;> rfl
@[simp] theorem penAfterEntry_inputs (cause : Cause) : (penAfterEntry cause s).inputs = s.inputs := by cases cause <;> rfl
@[simp] theorem penAfterEntry_clock (cause : Cause) : (penAfterEntry cause s).clock = s.clock := by cases cause <;> rfl
@[simp] theorem penAfterEntry_draws (cause : Cause) : (penAfterEntry cause s).draws = s.draws := by cases cause <;> rfl

end Sys2Proof.Machine
end

