-- ==== Sys2Proof/Laws/Registers.lean ====
section
/-! SUPPORT. What can be read of a state after each update: registers, loads, the address of the instruction. -/

namespace Sys2Proof.Machine

@[simp] theorem Bank.get_zr {α : Type} (b : Bank α) (z : α) : b.get z .zr = z := rfl

/-- Reading a bank after a write. -/
theorem Bank.get_set {α : Type} (b : Bank α) (z v : α) (r q : Reg) :
    (b.set r v).get z q = if q = r ∧ r ≠ .zr then v else b.get z q := by
  cases r <;> cases q <;> simp [Bank.set, Bank.get]

@[simp] theorem Bank.get_all {α : Type} (v : α) (r : Reg) : (Bank.all v).get v r = v := by
  cases r <;> rfl

/-! Registers. -/

variable (s t : State)

@[simp] theorem State.reg_zr : s.reg .zr = 0 := rfl

/-- Reading a register after a write (R21). -/
theorem State.reg_setReg (r q : Reg) (v : Word) :
    (s.setReg r v).reg q = if q = r ∧ r ≠ .zr then v else s.reg q := by
  simp [State.reg, Bank.get_set]

/-- Two states with the same register bank read the same. -/
theorem State.reg_congr {s t : State} (h : t.regs = s.regs) (q : Reg) : t.reg q = s.reg q := by
  simp [State.reg, h]

@[simp] theorem State.reg_setIp (a : Word) (q : Reg) : (s.setIp a).reg q = s.reg q := rfl
@[simp] theorem State.reg_setFlags (f : Flags) (q : Reg) : (s.setFlags f).reg q = s.reg q := rfl
@[simp] theorem State.reg_recordStore (a : Word) (q : Reg) : (s.recordStore a).reg q = s.reg q := rfl
@[simp] theorem State.reg_loadDrawn (q : Reg) : s.loadDrawn.reg q = s.reg q := rfl
@[simp] theorem State.reg_drawn (q : Reg) : s.drawn.reg q = s.reg q := rfl
@[simp] theorem State.reg_startLoad (r q : Reg) (v : Word) : (s.startLoad r v).reg q = s.reg q := rfl
@[simp] theorem State.reg_advance (q : Reg) : s.advance.reg q = s.reg q := rfl
@[simp] theorem State.reg_tick (q : Reg) : s.tick.reg q = s.reg q := rfl
@[simp] theorem State.reg_writeByte (a : Word) (v : Byte) (q : Reg) : (s.writeByte a v).reg q = s.reg q := rfl
@[simp] theorem State.reg_writeWord (a v : Word) (q : Reg) : (s.writeWord a v).reg q = s.reg q := rfl
@[simp] theorem State.reg_setCsrWord (k : BitVec 6) (v : Word) (q : Reg) :
    (s.setCsrWord k v).reg q = s.reg q := rfl

/-! Loads in flight. -/

@[simp] theorem State.awaited_zr : s.awaited .zr = none := rfl
@[simp] theorem State.pending_zr : s.pending .zr = false := rfl

/-- The load a register waits for after a load was started (R202). -/
theorem State.awaited_startLoad (r q : Reg) (v : Word) :
    (s.startLoad r v).awaited q = if q = r ∧ r ≠ .zr then some v else s.awaited q := by
  simp [State.awaited, Bank.get_set]

/-- Two states with the same loads in flight have the same pending registers. -/
theorem State.awaited_congr {s t : State} (h : t.inflight = s.inflight) (q : Reg) : t.awaited q = s.awaited q := by
  simp [State.awaited, h]

theorem State.pending_congr {s t : State} (h : t.inflight = s.inflight) (q : Reg) : t.pending q = s.pending q := by
  simp [State.pending, State.awaited, h]

theorem State.pending_eq_false_iff (q : Reg) : s.pending q = false ↔ s.awaited q = none := by
  simp [State.pending]

theorem State.pending_eq_true_iff (q : Reg) : s.pending q = true ↔ ∃ v, s.awaited q = some v := by
  simp [State.pending, Option.isSome_iff_exists]

@[simp] theorem State.awaited_setReg (r q : Reg) (v : Word) : (s.setReg r v).awaited q = s.awaited q := rfl
@[simp] theorem State.awaited_setIp (a : Word) (q : Reg) : (s.setIp a).awaited q = s.awaited q := rfl
@[simp] theorem State.awaited_setFlags (f : Flags) (q : Reg) : (s.setFlags f).awaited q = s.awaited q := rfl
@[simp] theorem State.awaited_recordStore (a : Word) (q : Reg) : (s.recordStore a).awaited q = s.awaited q := rfl
@[simp] theorem State.awaited_loadDrawn (q : Reg) : s.loadDrawn.awaited q = s.awaited q := rfl
@[simp] theorem State.awaited_drawn (q : Reg) : s.drawn.awaited q = s.awaited q := rfl
@[simp] theorem State.awaited_advance (q : Reg) : s.advance.awaited q = s.awaited q := rfl
@[simp] theorem State.awaited_tick (q : Reg) : s.tick.awaited q = s.awaited q := rfl
@[simp] theorem State.awaited_writeByte (a : Word) (v : Byte) (q : Reg) :
    (s.writeByte a v).awaited q = s.awaited q := rfl
@[simp] theorem State.awaited_writeWord (a v : Word) (q : Reg) : (s.writeWord a v).awaited q = s.awaited q := rfl
@[simp] theorem State.pending_tick (q : Reg) : s.tick.pending q = s.pending q := rfl
@[simp] theorem State.pending_setReg (r q : Reg) (v : Word) : (s.setReg r v).pending q = s.pending q := rfl
@[simp] theorem State.pending_setIp (a : Word) (q : Reg) : (s.setIp a).pending q = s.pending q := rfl
@[simp] theorem State.pending_advance (q : Reg) : s.advance.pending q = s.pending q := rfl

/-- A trap entry reads a register that is not pending as every instruction does (R27). -/
theorem State.regAtTrap_ready {q : Reg} (h : s.pending q = false) : s.regAtTrap q = s.reg q := by
  simp [State.regAtTrap, h]

/-- No register is pending exactly when the check over all eight finds none. -/
theorem State.anyPending_eq_false_iff : s.anyPending = false ↔ ∀ r, s.pending r = false := by
  constructor
  · intro h r
    have h' := List.any_eq_false.mp h r (by cases r <;> simp [allRegs])
    simpa using h'
  · intro h
    exact List.any_eq_false.mpr fun r _ => by simp [h r]

/-! `resolve(i)`: everything it can do (R29). -/

/-- A register that is not pending does not change the state. -/
theorem State.resolve_of_awaited_none {r : Reg} (h : s.awaited r = none) : s.resolve r = s := by
  simp [State.resolve, h]

/-- Resolution of a pending register: the value arrives and the bit is set. -/
theorem State.resolve_of_awaited_some {r : Reg} {v : Word} (h : s.awaited r = some v) :
    s.resolve r = { s.setReg r v with inflight := s.inflight.set r none } := by
  simp [State.resolve, h]

/-- The register read after a resolution. -/
theorem State.reg_resolve (r q : Reg) :
    (s.resolve r).reg q = if q = r then (s.awaited r).getD (s.reg r) else s.reg q := by
  cases h : s.awaited r with
  | none =>
    rw [s.resolve_of_awaited_none h]
    by_cases hq : q = r <;> simp [hq]
  | some v =>
    have hr : r ≠ .zr := by rintro rfl; simp at h
    rw [s.resolve_of_awaited_some h]
    simp [State.reg, Bank.get_set, hr]

/-- The loads in flight after a resolution. -/
theorem State.awaited_resolve (r q : Reg) :
    (s.resolve r).awaited q = if q = r then none else s.awaited q := by
  cases h : s.awaited r with
  | none =>
    rw [s.resolve_of_awaited_none h]
    by_cases hq : q = r <;> simp [hq, h]
  | some v =>
    have hr : r ≠ .zr := by rintro rfl; simp at h
    rw [s.resolve_of_awaited_some h]
    simp [State.awaited, Bank.get_set, hr]

/-! The address of the instruction. -/

/-- The address is twice the stored 15 bits (R30). -/
theorem State.addr_toNat : s.addr.toNat = 2 * s.ip.toNat := by
  have h : (s.ip ++ 0#1).toNat = s.ip.toNat <<< 1 ||| 0 := BitVec.toNat_append ..
  rw [State.addr, h, Nat.or_zero, Nat.shiftLeft_eq, pow_one, Nat.mul_comm]

/-- A value with bit 0 clear keeps it through the mask of R30. -/
theorem even_and_mask {x : Word} (h : x.getLsbD 0 = false) : x &&& 0xFFFE = x := by
  apply BitVec.eq_of_getLsbD_eq
  intro i hi
  rw [BitVec.getLsbD_and]
  interval_cases i <;> simp_all

/-- Bit 0 is the parity. -/
theorem getLsbD_zero_eq (x : Word) : x.getLsbD 0 = decide (x.toNat % 2 = 1) := by
  rw [BitVec.getLsbD, Nat.testBit_zero]

/-- The address is even (R30). -/
theorem State.addr_getLsbD_zero : s.addr.getLsbD 0 = false := by
  rw [getLsbD_zero_eq, s.addr_toNat]
  simp

/-- The address after ip is loaded: the target with bit 0 dropped (R30, R182). -/
theorem State.addr_setIp (a : Word) : (s.setIp a).addr = a &&& 0xFFFE := by
  apply BitVec.eq_of_getLsbD_eq
  intro i hi
  simp only [State.addr, State.setIp_ip, BitVec.getLsbD_append, BitVec.getLsbD_and]
  interval_cases i <;> simp

/-- The next address is even too, so it survives being loaded into ip. -/
theorem State.addr_add_two_and : (s.addr + 2) &&& 0xFFFE = s.addr + 2 := by
  apply even_and_mask
  rw [getLsbD_zero_eq, BitVec.toNat_add, s.addr_toNat, show (2 : Word).toNat = 2 from rfl]
  simp

@[simp] theorem State.addr_advance : s.advance.addr = s.addr + 2 := by
  simp only [State.advance, State.addr_setIp, State.addr_add_two_and]

theorem State.addr_congr {s t : State} (h : t.ip = s.ip) : t.addr = s.addr := by simp [State.addr, h]

@[simp] theorem State.addr_setReg (r : Reg) (v : Word) : (s.setReg r v).addr = s.addr := rfl
@[simp] theorem State.addr_setFlags (f : Flags) : (s.setFlags f).addr = s.addr := rfl
@[simp] theorem State.addr_recordStore (a : Word) : (s.recordStore a).addr = s.addr := rfl
@[simp] theorem State.addr_loadDrawn : s.loadDrawn.addr = s.addr := rfl
@[simp] theorem State.addr_drawn : s.drawn.addr = s.addr := rfl
@[simp] theorem State.addr_startLoad (r : Reg) (v : Word) : (s.startLoad r v).addr = s.addr := rfl
@[simp] theorem State.addr_writeByte (a : Word) (v : Byte) : (s.writeByte a v).addr = s.addr := rfl
@[simp] theorem State.addr_writeWord (a v : Word) : (s.writeWord a v).addr = s.addr := rfl
@[simp] theorem State.addr_tick : s.tick.addr = s.addr := rfl

/-! Control and status registers. -/

theorem State.csrWord_congr {s t : State} (h : t.csrs = s.csrs) (k : BitVec 6) : t.csrWord k = s.csrWord k := by
  simp [State.csrWord, h]

/-- Reading a CSR word after a write. -/
theorem State.csrWord_setCsrWord (k j : BitVec 6) (v : Word) :
    (s.setCsrWord k v).csrWord j = if j = k then v else s.csrWord j := by
  have e : ∀ (w : Vector Word 64) (m : BitVec 6), w.get m.toFin = w[m.toNat]'m.isLt := fun w m => rfl
  simp only [State.csrWord, State.setCsrWord_csrs, e, Vector.getElem_set]
  by_cases h : j = k
  · simp [h]
  · have : k.toNat ≠ j.toNat := fun h' => h (BitVec.eq_of_toNat_eq h'.symm)
    simp [h, this]

end Sys2Proof.Machine
end

