-- ==== Sys2Proof/Laws/Memory.lean ====
section
/-! SUPPORT. Memory: a read after a write, and that every operation keeps the canonical form. -/

namespace Sys2Proof.Machine

/-! The list of cells. -/

/-- Reading after a write: the byte written at its address, every other address as before. -/
theorem Memory.read?_write (m : Memory) (a b : Nat) (v : Byte) :
    Memory.read? (Memory.write m a v) b = if b = a then some v else Memory.read? m b := by
  induction m with
  | nil => simp [Memory.write, Memory.read?, eq_comm]
  | cons c m ih =>
    obtain ⟨d, w⟩ := c
    simp only [Memory.write]
    split
    · simp only [Memory.read?, eq_comm]
    · split
      · subst_vars
        simp only [Memory.read?]
        by_cases h : d = b
        · simp [h]
        · simp [h, Ne.symm h]
      · simp only [Memory.read?, ih]
        by_cases h : d = b
        · subst h; simp [Ne.symm ‹¬a = d›]
        · simp [h]

/-- The canonical form, said of the list at once: rising addresses, each below 2^16. -/
theorem Memory.wf_iff (m : Memory) :
    Memory.wf m = true ↔ m.Pairwise (fun p q => p.1 < q.1) ∧ ∀ p ∈ m, p.1 < 65536 := by
  induction m with
  | nil => simp [Memory.wf]
  | cons c m ih =>
    cases m with
    | nil => simp [Memory.wf]
    | cons d m =>
      obtain ⟨a, v⟩ := c
      obtain ⟨b, w⟩ := d
      simp only [Memory.wf, Bool.and_eq_true, decide_eq_true_eq, ih]
      constructor
      · rintro ⟨hab, hp, hb⟩
        have hrest := List.pairwise_cons.mp hp
        refine ⟨List.pairwise_cons.mpr ⟨?_, hp⟩, ?_⟩
        · intro q hq
          rcases List.mem_cons.mp hq with rfl | hq
          · exact hab
          · exact lt_trans hab (hrest.1 q hq)
        · intro q hq
          rcases List.mem_cons.mp hq with rfl | hq
          · exact lt_trans hab (hb (b, w) (by simp))
          · exact hb q hq
      · rintro ⟨hp, hb⟩
        have hc := List.pairwise_cons.mp hp
        exact ⟨hc.1 (b, w) (by simp), hc.2, fun q hq => hb q (List.mem_cons_of_mem _ hq)⟩

/-- Where the cells of a written memory come from. -/
theorem Memory.mem_write {m : Memory} {a : Nat} {v : Byte} {p : Host.Cell} (h : p ∈ Memory.write m a v) :
    p = (a, v) ∨ p ∈ m := by
  induction m with
  | nil => simpa [Memory.write] using h
  | cons c m ih =>
    obtain ⟨d, w⟩ := c
    simp only [Memory.write] at h
    split at h
    · simpa using h
    · split at h
      · rcases List.mem_cons.mp h with h | h
        · exact .inl h
        · exact .inr (List.mem_cons_of_mem _ h)
      · rcases List.mem_cons.mp h with h | h
        · exact .inr (h ▸ List.mem_cons_self)
        · exact (ih h).imp_right (List.mem_cons_of_mem _)

/-- A write keeps the canonical form. -/
theorem Memory.wf_write {m : Memory} (h : Memory.wf m = true) {a : Nat} (ha : a < 65536) (v : Byte) :
    Memory.wf (Memory.write m a v) = true := by
  rw [Memory.wf_iff] at h ⊢
  refine ⟨?_, fun p hp => ?_⟩
  · obtain ⟨hp, -⟩ := h
    induction m with
    | nil => simp [Memory.write]
    | cons c m ih =>
      obtain ⟨d, w⟩ := c
      have hc := List.pairwise_cons.mp hp
      simp only [Memory.write]
      split
      · refine List.pairwise_cons.mpr ⟨fun q hq => ?_, hp⟩
        rcases List.mem_cons.mp hq with rfl | hq
        · assumption
        · exact lt_trans ‹a < d› (hc.1 q hq)
      · split
        · subst_vars
          exact List.pairwise_cons.mpr ⟨hc.1, hc.2⟩
        · refine List.pairwise_cons.mpr ⟨fun q hq => ?_, ih hc.2⟩
          rcases Memory.mem_write hq with rfl | hq
          · exact lt_of_le_of_ne (not_lt.mp ‹¬a < d›) (Ne.symm ‹¬a = d›)
          · exact hc.1 q hq
  · rcases Memory.mem_write hp with rfl | hp
    · exact ha
    · exact h.2 p hp

/-! Bytes and words of a state. -/

variable (s : State)

/-- Reading a byte after a byte store (R11). -/
theorem State.readByte_writeByte (a b : Word) (v : Byte) :
    (s.writeByte a v).readByte b = if b = a then v else s.readByte b := by
  simp only [State.readByte, State.writeByte_mem, Memory.read?_write]
  by_cases h : b = a
  · simp [h]
  · simp [h, BitVec.toNat_inj]

/-- The two addresses of a word differ. -/
theorem add_one_ne (a : Word) : a + 1 ≠ a := by
  intro h
  have := congrArg (· - a) h
  simp at this

/-- Reading a byte after a word store (R53, R55). -/
theorem State.readByte_writeWord (a b v : Word) :
    (s.writeWord a v).readByte b =
      if b = a + 1 then highByte v else if b = a then lowByte v else s.readByte b := by
  simp only [State.writeWord, State.readByte_writeByte]

/-- The two halves of a word (R53). -/
theorem highByte_append_lowByte (v : Word) : highByte v ++ lowByte v = v := by
  apply BitVec.eq_of_getLsbD_eq
  intro i hi
  simp only [highByte, lowByte, BitVec.getLsbD_append]
  interval_cases i <;> simp

/-- A word load after a word store at the same address (R53). -/
theorem State.readWord_writeWord (a v : Word) : (s.writeWord a v).readWord a = v := by
  simp only [State.readWord, State.readByte_writeWord, if_true, (add_one_ne a).symm, if_false]
  exact highByte_append_lowByte v

/-- Memory that is the same reads the same. -/
theorem State.readByte_congr {s t : State} (h : t.mem = s.mem) (a : Word) : t.readByte a = s.readByte a := by
  simp [State.readByte, h]

theorem State.readWord_congr {s t : State} (h : t.mem = s.mem) (a : Word) : t.readWord a = s.readWord a := by
  simp [State.readWord, State.readByte, h]

/-- A byte store keeps the canonical form. -/
theorem State.wf_writeByte (h : Memory.wf s.mem = true) (a : Word) (v : Byte) :
    Memory.wf (s.writeByte a v).mem = true :=
  Memory.wf_write h a.isLt v

/-- A word store keeps the canonical form. -/
theorem State.wf_writeWord (h : Memory.wf s.mem = true) (a v : Word) :
    Memory.wf (s.writeWord a v).mem = true :=
  State.wf_writeByte _ (State.wf_writeByte _ h _ _) _ _

/-- Memory after reset has the canonical form: nothing is listed. -/
theorem reset_memory_wf : Memory.wf State.reset.mem = true := rfl

/-- The load of bytes keeps the canonical form. -/
theorem State.wf_placeBytes (bytes : List (Option Byte)) (a : Word) (h : Memory.wf s.mem = true) :
    Memory.wf (s.placeBytes a bytes).mem = true := by
  induction bytes generalizing a s with
  | nil => simpa [State.placeBytes] using h
  | cons b bytes ih =>
    cases b with
    | none => exact ih s (a + 1) h
    | some b => exact ih _ (a + 1) (s.wf_writeByte h a b)

/-! The accesses: everything they can answer (R57, R62, R64). -/

/-- A byte store that answers a state wrote one byte, outside the program image it keeps. -/
theorem storeByte_ok {a : Word} {v : Byte} {s t : State} (h : storeByte a v s = .ok t) :
    ∃ p, s.translate a = some p ∧ s.keepsText p = false ∧ t = (s.recordStore p).writeByte p v := by
  unfold storeByte at h
  split at h
  · cases h
  · split at h
    · cases h
    · exact ⟨_, ‹_›, Bool.eq_false_iff.mpr ‹_›, by simpa using h.symm⟩

/-- A word store that answers a state wrote two bytes, outside the program image it keeps. -/
theorem storeWord_ok {a v : Word} {s t : State} (h : storeWord a v s = .ok t) :
    s.misaligned a = false ∧ ∃ p q, s.translate a = some p ∧ s.translate (a + 1) = some q ∧
      s.keepsText p = false ∧ s.keepsText q = false ∧
      t = (((s.recordStore p).recordStore q).writeByte p (lowByte v)).writeByte q (highByte v) := by
  unfold storeWord at h
  split at h
  · cases h
  · split at h
    · split at h
      · cases h
      · rename_i hk
        simp only [Bool.or_eq_true, not_or, Bool.not_eq_true] at hk
        exact ⟨Bool.eq_false_iff.mpr ‹_›, _, _, ‹_›, ‹_›, hk.1, hk.2, by simpa using h.symm⟩
    · cases h

end Sys2Proof.Machine
end

