-- ==== Sys2Proof/Laws/PerInstr.lean ====
section
/-! SUPPORT. The statements made for each instruction: the word of every instruction lies in its row of
spec/opcode_table.json, whose `match` and `mask` columns are copied here (R91, R92, R101 to R103, R241 to
R262). -/

namespace Sys2Proof.Laws

/-- The `mask` and `match` columns of the row of an instruction. -/
def tableRow : Instr → Word × Word
  | .add .. => (0xF8C0, 0x0000)
  | .addc .. => (0xF8C0, 0x0040)
  | .sub .. => (0xF8C0, 0x0080)
  | .subb .. => (0xF8C0, 0x00C0)
  | .slt .. => (0xF8C0, 0x1880)
  | .sltu .. => (0xF8C0, 0x18C0)
  | .szr .. => (0xF8C0, 0x2000)
  | .ior .. => (0xF8C0, 0x2040)
  | .and .. => (0xF8C0, 0x2080)
  | .xor .. => (0xF8C0, 0x20C0)
  | .addi .. => (0xF800, 0x0800)
  | .cmpi .. => (0xF800, 0x1000)
  | .iori .. => (0xF800, 0x2800)
  | .ioriu .. => (0xF800, 0x3000)
  | .andi .. => (0xF800, 0x3800)
  | .andiu .. => (0xF800, 0x4000)
  | .biti .. => (0xF800, 0x4800)
  | .xori .. => (0xF800, 0x5000)
  | .xoriu .. => (0xF800, 0x5800)
  | .lli .. => (0xF800, 0x8000)
  | .lui .. => (0xF800, 0x8800)
  | .bsl .. => (0xF880, 0x6000)
  | .bsr .. => (0xF880, 0x6080)
  | .bsrs .. => (0xF880, 0x6800)
  | .brr .. => (0xF880, 0x6880)
  | .bsld .. => (0xF8C0, 0x7000)
  | .bsrd .. => (0xF8C0, 0x7040)
  | .bsrsd .. => (0xF8C0, 0x7080)
  | .brrd .. => (0xF8C0, 0x70C0)
  | .jmp .. => (0xF800, 0x9000)
  | .jmpl .. => (0xF800, 0x9800)
  | .jmpr .. => (0xF800, 0xA000)
  | .jmprl .. => (0xF800, 0xA800)
  | .jmpd .. => (0xF800, 0xB000)
  | .jmpdl .. => (0xF800, 0xB800)
  | .brh .. => (0xF800, 0xC000)
  | .prfi .. => (0xF800, 0xC800)
  | .mld .. => (0xF800, 0xD000)
  | .mldw .. => (0xF800, 0xD800)
  | .mst .. => (0xF800, 0xE000)
  | .mstw .. => (0xF800, 0xE800)
  | .xch .. => (0xF800, 0xF000)
  | .xchw .. => (0xF800, 0xF800)
  | .csrr .. => (0xF8C0, 0x1800)
  | .csrw .. => (0xF8C0, 0x1840)
  | .bkpt => (0xFFFF, 0x0000)
  | .nop => (0xFFFF, 0x0800)
  | .sysc .. => (0xFF00, 0xB000)
  | .fence => (0xFFFF, 0xB801)
  | .ftlb => (0xFFFF, 0xB802)
  | .rfi => (0xFFFF, 0xB804)
  | .wfi => (0xFFFF, 0xB808)
  | .scf => (0xFFFF, 0xB810)
  | .rscf => (0xFFFF, 0xB820)
  | .reservedB840 => (0xFFFF, 0xB840)
  | .reservedB880 => (0xFFFF, 0xB880)
  | .reserved01111 .. => (0xF800, 0x7800)
  | .reservedBrhCond011 .. => (0xFF00, 0xC300)
  | .reservedBrhCond111 .. => (0xFF00, 0xC700)
  | .mov .. => (0xF8C7, 0x0000)
  | .test .. => (0xFFC7, 0x0000)
  | .neg .. => (0xF8F8, 0x0080)
  | .cmp .. => (0xFFC0, 0x0080)
  | .inc .. => (0xF8FF, 0x0801)
  | .dec .. => (0xF8FF, 0x08FF)
  | .alloc .. => (0xFF00, 0x0A00)
  | .ip .. => (0xF8C0, 0x1800)
  | .clri .. => (0xFFC0, 0x1840)
  | .sneg .. => (0xF8C7, 0x1880)
  | .spos .. => (0xF8F8, 0x1880)
  | .snez .. => (0xF8F8, 0x18C0)
  | .cut4 .. => (0xF8FF, 0x400F)
  | .cut8 .. => (0xF8FF, 0x40FF)
  | .clrl .. => (0xF8FF, 0x4000)
  | .not .. => (0xF8FF, 0x50FF)
  | .not8 .. => (0xF8FF, 0x58FF)
  | .clr .. => (0xF8FF, 0x8800)
  | .ret => (0xFFFF, 0xB100)
  | .prfd .. => (0xFF00, 0xD800)
  | .mclr .. => (0xFF00, 0xE000)
  | .mclrw .. => (0xFF00, 0xE800)

end Sys2Proof.Laws

namespace Sys2Proof.Laws

/-! What is left of a word of each format under the masks of the table. -/

theorem wordR3_row_F8C0 (op : BitVec 5) (r1 : Reg) (fn : BitVec 2) (r2 : Reg) (r3 : Reg) :
    wordR3 op r1 fn r2 r3 &&& 0xF8C0 = op ++ 0#3 ++ fn ++ 0#3 ++ 0#3 := by
  refine BitVec.eq_of_getLsbD_eq fun j hj => ?_
  simp only [wordR3, BitVec.getLsbD_append, BitVec.getLsbD_and]
  interval_cases j <;> simp

theorem wordI8_row_F800 (op : BitVec 5) (r1 : Reg) (imm : BitVec 8) :
    wordI8 op r1 imm &&& 0xF800 = op ++ 0#3 ++ 0#8 := by
  refine BitVec.eq_of_getLsbD_eq fun j hj => ?_
  simp only [wordI8, BitVec.getLsbD_append, BitVec.getLsbD_and]
  interval_cases j <;> simp

theorem wordSh_row_F880 (op : BitVec 5) (r1 : Reg) (sel : BitVec 1) (amt : BitVec 4) (r2 : Reg) :
    wordSh op r1 sel amt r2 &&& 0xF880 = op ++ 0#3 ++ sel ++ 0#4 ++ 0#3 := by
  refine BitVec.eq_of_getLsbD_eq fun j hj => ?_
  simp only [wordSh, BitVec.getLsbD_append, BitVec.getLsbD_and]
  interval_cases j <;> simp

theorem wordJ11_row_F800 (op : BitVec 5) (imm : BitVec 11) :
    wordJ11 op imm &&& 0xF800 = op ++ 0#11 := by
  refine BitVec.eq_of_getLsbD_eq fun j hj => ?_
  simp only [wordJ11, BitVec.getLsbD_append, BitVec.getLsbD_and]
  interval_cases j <;> simp

theorem wordB_row_F800 (op : BitVec 5) (cond : BitVec 3) (imm : BitVec 8) :
    wordB op cond imm &&& 0xF800 = op ++ 0#3 ++ 0#8 := by
  refine BitVec.eq_of_getLsbD_eq fun j hj => ?_
  simp only [wordB, BitVec.getLsbD_append, BitVec.getLsbD_and]
  interval_cases j <;> simp

theorem wordM_row_F800 (op : BitVec 5) (r1 : Reg) (imm : BitVec 5) (r2 : Reg) :
    wordM op r1 imm r2 &&& 0xF800 = op ++ 0#3 ++ 0#5 ++ 0#3 := by
  refine BitVec.eq_of_getLsbD_eq fun j hj => ?_
  simp only [wordM, BitVec.getLsbD_append, BitVec.getLsbD_and]
  interval_cases j <;> simp

theorem wordCsr_row_F8C0 (op : BitVec 5) (r1 : Reg) (fn : BitVec 2) (csr : BitVec 6) :
    wordCsr op r1 fn csr &&& 0xF8C0 = op ++ 0#3 ++ fn ++ 0#6 := by
  refine BitVec.eq_of_getLsbD_eq fun j hj => ?_
  simp only [wordCsr, BitVec.getLsbD_append, BitVec.getLsbD_and]
  interval_cases j <;> simp

theorem wordI8_row_FF00 (op : BitVec 5) (r1 : Reg) (imm : BitVec 8) :
    wordI8 op r1 imm &&& 0xFF00 = op ++ r1.toBits ++ 0#8 := by
  refine BitVec.eq_of_getLsbD_eq fun j hj => ?_
  simp only [wordI8, BitVec.getLsbD_append, BitVec.getLsbD_and]
  interval_cases j <;> simp

theorem wordR3_row_F800 (op : BitVec 5) (r1 : Reg) (fn : BitVec 2) (r2 : Reg) (r3 : Reg) :
    wordR3 op r1 fn r2 r3 &&& 0xF800 = op ++ 0#3 ++ 0#2 ++ 0#3 ++ 0#3 := by
  refine BitVec.eq_of_getLsbD_eq fun j hj => ?_
  simp only [wordR3, BitVec.getLsbD_append, BitVec.getLsbD_and]
  interval_cases j <;> simp

theorem wordB_row_FF00 (op : BitVec 5) (cond : BitVec 3) (imm : BitVec 8) :
    wordB op cond imm &&& 0xFF00 = op ++ cond ++ 0#8 := by
  refine BitVec.eq_of_getLsbD_eq fun j hj => ?_
  simp only [wordB, BitVec.getLsbD_append, BitVec.getLsbD_and]
  interval_cases j <;> simp

theorem wordR3_row_F8C7 (op : BitVec 5) (r1 : Reg) (fn : BitVec 2) (r2 : Reg) (r3 : Reg) :
    wordR3 op r1 fn r2 r3 &&& 0xF8C7 = op ++ 0#3 ++ fn ++ 0#3 ++ r3.toBits := by
  refine BitVec.eq_of_getLsbD_eq fun j hj => ?_
  simp only [wordR3, BitVec.getLsbD_append, BitVec.getLsbD_and]
  interval_cases j <;> simp

theorem wordR3_row_FFC7 (op : BitVec 5) (r1 : Reg) (fn : BitVec 2) (r2 : Reg) (r3 : Reg) :
    wordR3 op r1 fn r2 r3 &&& 0xFFC7 = op ++ r1.toBits ++ fn ++ 0#3 ++ r3.toBits := by
  refine BitVec.eq_of_getLsbD_eq fun j hj => ?_
  simp only [wordR3, BitVec.getLsbD_append, BitVec.getLsbD_and]
  interval_cases j <;> simp

theorem wordR3_row_F8F8 (op : BitVec 5) (r1 : Reg) (fn : BitVec 2) (r2 : Reg) (r3 : Reg) :
    wordR3 op r1 fn r2 r3 &&& 0xF8F8 = op ++ 0#3 ++ fn ++ r2.toBits ++ 0#3 := by
  refine BitVec.eq_of_getLsbD_eq fun j hj => ?_
  simp only [wordR3, BitVec.getLsbD_append, BitVec.getLsbD_and]
  interval_cases j <;> simp

theorem wordR3_row_FFC0 (op : BitVec 5) (r1 : Reg) (fn : BitVec 2) (r2 : Reg) (r3 : Reg) :
    wordR3 op r1 fn r2 r3 &&& 0xFFC0 = op ++ r1.toBits ++ fn ++ 0#3 ++ 0#3 := by
  refine BitVec.eq_of_getLsbD_eq fun j hj => ?_
  simp only [wordR3, BitVec.getLsbD_append, BitVec.getLsbD_and]
  interval_cases j <;> simp

theorem wordI8_row_F8FF (op : BitVec 5) (r1 : Reg) (imm : BitVec 8) :
    wordI8 op r1 imm &&& 0xF8FF = op ++ 0#3 ++ imm := by
  refine BitVec.eq_of_getLsbD_eq fun j hj => ?_
  simp only [wordI8, BitVec.getLsbD_append, BitVec.getLsbD_and]
  interval_cases j <;> simp

theorem wordCsr_row_FFC0 (op : BitVec 5) (r1 : Reg) (fn : BitVec 2) (csr : BitVec 6) :
    wordCsr op r1 fn csr &&& 0xFFC0 = op ++ r1.toBits ++ fn ++ 0#6 := by
  refine BitVec.eq_of_getLsbD_eq fun j hj => ?_
  simp only [wordCsr, BitVec.getLsbD_append, BitVec.getLsbD_and]
  interval_cases j <;> simp

theorem wordM_row_FF00 (op : BitVec 5) (r1 : Reg) (imm : BitVec 5) (r2 : Reg) :
    wordM op r1 imm r2 &&& 0xFF00 = op ++ r1.toBits ++ 0#5 ++ 0#3 := by
  refine BitVec.eq_of_getLsbD_eq fun j hj => ?_
  simp only [wordM, BitVec.getLsbD_append, BitVec.getLsbD_and]
  interval_cases j <;> simp

end Sys2Proof.Laws

/-- The encoder's word has the fixed bits of the instruction's row. -/
def Sys2Proof.Laws.TableRow.Statement (i : Sys2Proof.Instr) : Prop :=
  Sys2Proof.encode i &&& (Sys2Proof.Laws.tableRow i).1 = (Sys2Proof.Laws.tableRow i).2

open Sys2Proof Sys2Proof.Laws

theorem Sys2Proof.Laws.TableRow.add (rd rs1 rs2 : Reg) :
    Sys2Proof.Laws.TableRow.Statement (.add rd rs1 rs2) :=
  wordR3_row_F8C0 0b00000#5 rd 0b00#2 rs1 rs2

theorem Sys2Proof.Laws.TableRow.addc (rd rs1 rs2 : Reg) :
    Sys2Proof.Laws.TableRow.Statement (.addc rd rs1 rs2) :=
  wordR3_row_F8C0 0b00000#5 rd 0b01#2 rs1 rs2

theorem Sys2Proof.Laws.TableRow.sub (rd rs1 rs2 : Reg) :
    Sys2Proof.Laws.TableRow.Statement (.sub rd rs1 rs2) :=
  wordR3_row_F8C0 0b00000#5 rd 0b10#2 rs1 rs2

theorem Sys2Proof.Laws.TableRow.subb (rd rs1 rs2 : Reg) :
    Sys2Proof.Laws.TableRow.Statement (.subb rd rs1 rs2) :=
  wordR3_row_F8C0 0b00000#5 rd 0b11#2 rs1 rs2

theorem Sys2Proof.Laws.TableRow.slt (rd rs1 rs2 : Reg) :
    Sys2Proof.Laws.TableRow.Statement (.slt rd rs1 rs2) :=
  wordR3_row_F8C0 0b00011#5 rd 0b10#2 rs1 rs2

theorem Sys2Proof.Laws.TableRow.sltu (rd rs1 rs2 : Reg) :
    Sys2Proof.Laws.TableRow.Statement (.sltu rd rs1 rs2) :=
  wordR3_row_F8C0 0b00011#5 rd 0b11#2 rs1 rs2

theorem Sys2Proof.Laws.TableRow.szr (rd rs1 rs2 : Reg) :
    Sys2Proof.Laws.TableRow.Statement (.szr rd rs1 rs2) :=
  wordR3_row_F8C0 0b00100#5 rd 0b00#2 rs1 rs2

theorem Sys2Proof.Laws.TableRow.ior (rd rs1 rs2 : Reg) :
    Sys2Proof.Laws.TableRow.Statement (.ior rd rs1 rs2) :=
  wordR3_row_F8C0 0b00100#5 rd 0b01#2 rs1 rs2

theorem Sys2Proof.Laws.TableRow.and (rd rs1 rs2 : Reg) :
    Sys2Proof.Laws.TableRow.Statement (.and rd rs1 rs2) :=
  wordR3_row_F8C0 0b00100#5 rd 0b10#2 rs1 rs2

theorem Sys2Proof.Laws.TableRow.xor (rd rs1 rs2 : Reg) :
    Sys2Proof.Laws.TableRow.Statement (.xor rd rs1 rs2) :=
  wordR3_row_F8C0 0b00100#5 rd 0b11#2 rs1 rs2

theorem Sys2Proof.Laws.TableRow.addi (rw : Reg) (imm : BitVec 8) :
    Sys2Proof.Laws.TableRow.Statement (.addi rw imm) :=
  wordI8_row_F800 0b00001#5 rw imm

theorem Sys2Proof.Laws.TableRow.cmpi (rs : Reg) (imm : BitVec 8) :
    Sys2Proof.Laws.TableRow.Statement (.cmpi rs imm) :=
  wordI8_row_F800 0b00010#5 rs imm

theorem Sys2Proof.Laws.TableRow.iori (rw : Reg) (imm : BitVec 8) :
    Sys2Proof.Laws.TableRow.Statement (.iori rw imm) :=
  wordI8_row_F800 0b00101#5 rw imm

theorem Sys2Proof.Laws.TableRow.ioriu (rw : Reg) (imm : BitVec 8) :
    Sys2Proof.Laws.TableRow.Statement (.ioriu rw imm) :=
  wordI8_row_F800 0b00110#5 rw imm

theorem Sys2Proof.Laws.TableRow.andi (rw : Reg) (imm : BitVec 8) :
    Sys2Proof.Laws.TableRow.Statement (.andi rw imm) :=
  wordI8_row_F800 0b00111#5 rw imm

theorem Sys2Proof.Laws.TableRow.andiu (rw : Reg) (imm : BitVec 8) :
    Sys2Proof.Laws.TableRow.Statement (.andiu rw imm) :=
  wordI8_row_F800 0b01000#5 rw imm

theorem Sys2Proof.Laws.TableRow.biti (rs : Reg) (imm : BitVec 8) :
    Sys2Proof.Laws.TableRow.Statement (.biti rs imm) :=
  wordI8_row_F800 0b01001#5 rs imm

theorem Sys2Proof.Laws.TableRow.xori (rw : Reg) (imm : BitVec 8) :
    Sys2Proof.Laws.TableRow.Statement (.xori rw imm) :=
  wordI8_row_F800 0b01010#5 rw imm

theorem Sys2Proof.Laws.TableRow.xoriu (rw : Reg) (imm : BitVec 8) :
    Sys2Proof.Laws.TableRow.Statement (.xoriu rw imm) :=
  wordI8_row_F800 0b01011#5 rw imm

theorem Sys2Proof.Laws.TableRow.lli (rd : Reg) (imm : BitVec 8) :
    Sys2Proof.Laws.TableRow.Statement (.lli rd imm) :=
  wordI8_row_F800 0b10000#5 rd imm

theorem Sys2Proof.Laws.TableRow.lui (rd : Reg) (imm : BitVec 8) :
    Sys2Proof.Laws.TableRow.Statement (.lui rd imm) :=
  wordI8_row_F800 0b10001#5 rd imm

theorem Sys2Proof.Laws.TableRow.bsl (rd rs : Reg) (amt : BitVec 4) :
    Sys2Proof.Laws.TableRow.Statement (.bsl rd rs amt) :=
  wordSh_row_F880 0b01100#5 rd 0#1 amt rs

theorem Sys2Proof.Laws.TableRow.bsr (rd rs : Reg) (amt : BitVec 4) :
    Sys2Proof.Laws.TableRow.Statement (.bsr rd rs amt) :=
  wordSh_row_F880 0b01100#5 rd 1#1 amt rs

theorem Sys2Proof.Laws.TableRow.bsrs (rd rs : Reg) (amt : BitVec 4) :
    Sys2Proof.Laws.TableRow.Statement (.bsrs rd rs amt) :=
  wordSh_row_F880 0b01101#5 rd 0#1 amt rs

theorem Sys2Proof.Laws.TableRow.brr (rd rs : Reg) (amt : BitVec 4) :
    Sys2Proof.Laws.TableRow.Statement (.brr rd rs amt) :=
  wordSh_row_F880 0b01101#5 rd 1#1 amt rs

theorem Sys2Proof.Laws.TableRow.bsld (rd rs1 rs2 : Reg) :
    Sys2Proof.Laws.TableRow.Statement (.bsld rd rs1 rs2) :=
  wordR3_row_F8C0 0b01110#5 rd 0b00#2 rs1 rs2

theorem Sys2Proof.Laws.TableRow.bsrd (rd rs1 rs2 : Reg) :
    Sys2Proof.Laws.TableRow.Statement (.bsrd rd rs1 rs2) :=
  wordR3_row_F8C0 0b01110#5 rd 0b01#2 rs1 rs2

theorem Sys2Proof.Laws.TableRow.bsrsd (rd rs1 rs2 : Reg) :
    Sys2Proof.Laws.TableRow.Statement (.bsrsd rd rs1 rs2) :=
  wordR3_row_F8C0 0b01110#5 rd 0b10#2 rs1 rs2

theorem Sys2Proof.Laws.TableRow.brrd (rd rs1 rs2 : Reg) :
    Sys2Proof.Laws.TableRow.Statement (.brrd rd rs1 rs2) :=
  wordR3_row_F8C0 0b01110#5 rd 0b11#2 rs1 rs2

theorem Sys2Proof.Laws.TableRow.jmp (imm : BitVec 11) :
    Sys2Proof.Laws.TableRow.Statement (.jmp imm) :=
  wordJ11_row_F800 0b10010#5 imm

theorem Sys2Proof.Laws.TableRow.jmpl (imm : BitVec 11) :
    Sys2Proof.Laws.TableRow.Statement (.jmpl imm) :=
  wordJ11_row_F800 0b10011#5 imm

theorem Sys2Proof.Laws.TableRow.jmpr (imm : BitVec 11) :
    Sys2Proof.Laws.TableRow.Statement (.jmpr imm) :=
  wordJ11_row_F800 0b10100#5 imm

theorem Sys2Proof.Laws.TableRow.jmprl (imm : BitVec 11) :
    Sys2Proof.Laws.TableRow.Statement (.jmprl imm) :=
  wordJ11_row_F800 0b10101#5 imm

theorem Sys2Proof.Laws.TableRow.jmpd (rs : Reg) :
    Sys2Proof.Laws.TableRow.Statement (.jmpd rs) :=
  wordI8_row_F800 0b10110#5 rs 0

theorem Sys2Proof.Laws.TableRow.jmpdl (rs : Reg) :
    Sys2Proof.Laws.TableRow.Statement (.jmpdl rs) :=
  wordI8_row_F800 0b10111#5 rs 0

theorem Sys2Proof.Laws.TableRow.brh (cond : Cond) (imm : BitVec 8) :
    Sys2Proof.Laws.TableRow.Statement (.brh cond imm) :=
  wordB_row_F800 0b11000#5 cond.toBits imm

theorem Sys2Proof.Laws.TableRow.prfi (imm : BitVec 11) :
    Sys2Proof.Laws.TableRow.Statement (.prfi imm) :=
  wordJ11_row_F800 0b11001#5 imm

theorem Sys2Proof.Laws.TableRow.mld (rd base : Reg) (imm : BitVec 5) :
    Sys2Proof.Laws.TableRow.Statement (.mld rd base imm) :=
  wordM_row_F800 0b11010#5 rd imm base

theorem Sys2Proof.Laws.TableRow.mldw (rd base : Reg) (imm : BitVec 5) :
    Sys2Proof.Laws.TableRow.Statement (.mldw rd base imm) :=
  wordM_row_F800 0b11011#5 rd imm base

theorem Sys2Proof.Laws.TableRow.mst (rs base : Reg) (imm : BitVec 5) :
    Sys2Proof.Laws.TableRow.Statement (.mst rs base imm) :=
  wordM_row_F800 0b11100#5 rs imm base

theorem Sys2Proof.Laws.TableRow.mstw (rs base : Reg) (imm : BitVec 5) :
    Sys2Proof.Laws.TableRow.Statement (.mstw rs base imm) :=
  wordM_row_F800 0b11101#5 rs imm base

theorem Sys2Proof.Laws.TableRow.xch (rw base : Reg) (imm : BitVec 5) :
    Sys2Proof.Laws.TableRow.Statement (.xch rw base imm) :=
  wordM_row_F800 0b11110#5 rw imm base

theorem Sys2Proof.Laws.TableRow.xchw (rw base : Reg) (imm : BitVec 5) :
    Sys2Proof.Laws.TableRow.Statement (.xchw rw base imm) :=
  wordM_row_F800 0b11111#5 rw imm base

theorem Sys2Proof.Laws.TableRow.csrr (rd : Reg) (csr : BitVec 6) :
    Sys2Proof.Laws.TableRow.Statement (.csrr rd csr) :=
  wordCsr_row_F8C0 0b00011#5 rd 0b00#2 csr

theorem Sys2Proof.Laws.TableRow.csrw (rs : Reg) (csr : BitVec 6) :
    Sys2Proof.Laws.TableRow.Statement (.csrw rs csr) :=
  wordCsr_row_F8C0 0b00011#5 rs 0b01#2 csr

theorem Sys2Proof.Laws.TableRow.bkpt :
    Sys2Proof.Laws.TableRow.Statement .bkpt := rfl

theorem Sys2Proof.Laws.TableRow.nop :
    Sys2Proof.Laws.TableRow.Statement .nop := rfl

theorem Sys2Proof.Laws.TableRow.sysc (x : BitVec 8) :
    Sys2Proof.Laws.TableRow.Statement (.sysc x) :=
  wordI8_row_FF00 0b10110#5 .zr x

theorem Sys2Proof.Laws.TableRow.fence :
    Sys2Proof.Laws.TableRow.Statement .fence := rfl

theorem Sys2Proof.Laws.TableRow.ftlb :
    Sys2Proof.Laws.TableRow.Statement .ftlb := rfl

theorem Sys2Proof.Laws.TableRow.rfi :
    Sys2Proof.Laws.TableRow.Statement .rfi := rfl

theorem Sys2Proof.Laws.TableRow.wfi :
    Sys2Proof.Laws.TableRow.Statement .wfi := rfl

theorem Sys2Proof.Laws.TableRow.scf :
    Sys2Proof.Laws.TableRow.Statement .scf := rfl

theorem Sys2Proof.Laws.TableRow.rscf :
    Sys2Proof.Laws.TableRow.Statement .rscf := rfl

theorem Sys2Proof.Laws.TableRow.reservedB840 :
    Sys2Proof.Laws.TableRow.Statement .reservedB840 := rfl

theorem Sys2Proof.Laws.TableRow.reservedB880 :
    Sys2Proof.Laws.TableRow.Statement .reservedB880 := rfl

theorem Sys2Proof.Laws.TableRow.reserved01111 (rd : Reg) (fn : BitVec 2) (rs1 rs2 : Reg) :
    Sys2Proof.Laws.TableRow.Statement (.reserved01111 rd fn rs1 rs2) :=
  wordR3_row_F800 0b01111#5 rd fn rs1 rs2

theorem Sys2Proof.Laws.TableRow.reservedBrhCond011 (imm : BitVec 8) :
    Sys2Proof.Laws.TableRow.Statement (.reservedBrhCond011 imm) :=
  wordB_row_FF00 0b11000#5 0b011#3 imm

theorem Sys2Proof.Laws.TableRow.reservedBrhCond111 (imm : BitVec 8) :
    Sys2Proof.Laws.TableRow.Statement (.reservedBrhCond111 imm) :=
  wordB_row_FF00 0b11000#5 0b111#3 imm

theorem Sys2Proof.Laws.TableRow.mov (rd rs : Reg) :
    Sys2Proof.Laws.TableRow.Statement (.mov rd rs) :=
  wordR3_row_F8C7 0b00000#5 rd 0b00#2 rs .zr

theorem Sys2Proof.Laws.TableRow.test (rs : Reg) :
    Sys2Proof.Laws.TableRow.Statement (.test rs) :=
  wordR3_row_FFC7 0b00000#5 .zr 0b00#2 rs .zr

theorem Sys2Proof.Laws.TableRow.neg (rd rs : Reg) :
    Sys2Proof.Laws.TableRow.Statement (.neg rd rs) :=
  wordR3_row_F8F8 0b00000#5 rd 0b10#2 .zr rs

theorem Sys2Proof.Laws.TableRow.cmp (rs1 rs2 : Reg) :
    Sys2Proof.Laws.TableRow.Statement (.cmp rs1 rs2) :=
  wordR3_row_FFC0 0b00000#5 .zr 0b10#2 rs1 rs2

theorem Sys2Proof.Laws.TableRow.inc (rw : Reg) :
    Sys2Proof.Laws.TableRow.Statement (.inc rw) :=
  wordI8_row_F8FF 0b00001#5 rw 0x01

theorem Sys2Proof.Laws.TableRow.dec (rw : Reg) :
    Sys2Proof.Laws.TableRow.Statement (.dec rw) :=
  wordI8_row_F8FF 0b00001#5 rw 0xFF

theorem Sys2Proof.Laws.TableRow.alloc (imm : BitVec 8) :
    Sys2Proof.Laws.TableRow.Statement (.alloc imm) :=
  wordI8_row_FF00 0b00001#5 .sp imm

theorem Sys2Proof.Laws.TableRow.ip (rd : Reg) (csr : BitVec 6) :
    Sys2Proof.Laws.TableRow.Statement (.ip rd csr) :=
  wordCsr_row_F8C0 0b00011#5 rd 0b00#2 csr

theorem Sys2Proof.Laws.TableRow.clri (csr : BitVec 6) :
    Sys2Proof.Laws.TableRow.Statement (.clri csr) :=
  wordCsr_row_FFC0 0b00011#5 .zr 0b01#2 csr

theorem Sys2Proof.Laws.TableRow.sneg (rd rs : Reg) :
    Sys2Proof.Laws.TableRow.Statement (.sneg rd rs) :=
  wordR3_row_F8C7 0b00011#5 rd 0b10#2 rs .zr

theorem Sys2Proof.Laws.TableRow.spos (rd rs : Reg) :
    Sys2Proof.Laws.TableRow.Statement (.spos rd rs) :=
  wordR3_row_F8F8 0b00011#5 rd 0b10#2 .zr rs

theorem Sys2Proof.Laws.TableRow.snez (rd rs : Reg) :
    Sys2Proof.Laws.TableRow.Statement (.snez rd rs) :=
  wordR3_row_F8F8 0b00011#5 rd 0b11#2 .zr rs

theorem Sys2Proof.Laws.TableRow.cut4 (rw : Reg) :
    Sys2Proof.Laws.TableRow.Statement (.cut4 rw) :=
  wordI8_row_F8FF 0b01000#5 rw 0x0F

theorem Sys2Proof.Laws.TableRow.cut8 (rw : Reg) :
    Sys2Proof.Laws.TableRow.Statement (.cut8 rw) :=
  wordI8_row_F8FF 0b01000#5 rw 0xFF

theorem Sys2Proof.Laws.TableRow.clrl (rw : Reg) :
    Sys2Proof.Laws.TableRow.Statement (.clrl rw) :=
  wordI8_row_F8FF 0b01000#5 rw 0x00

theorem Sys2Proof.Laws.TableRow.not (rw : Reg) :
    Sys2Proof.Laws.TableRow.Statement (.not rw) :=
  wordI8_row_F8FF 0b01010#5 rw 0xFF

theorem Sys2Proof.Laws.TableRow.not8 (rw : Reg) :
    Sys2Proof.Laws.TableRow.Statement (.not8 rw) :=
  wordI8_row_F8FF 0b01011#5 rw 0xFF

theorem Sys2Proof.Laws.TableRow.clr (rd : Reg) :
    Sys2Proof.Laws.TableRow.Statement (.clr rd) :=
  wordI8_row_F8FF 0b10001#5 rd 0x00

theorem Sys2Proof.Laws.TableRow.ret :
    Sys2Proof.Laws.TableRow.Statement .ret := rfl

theorem Sys2Proof.Laws.TableRow.prfd (base : Reg) (imm : BitVec 5) :
    Sys2Proof.Laws.TableRow.Statement (.prfd base imm) :=
  wordM_row_FF00 0b11011#5 .zr imm base

theorem Sys2Proof.Laws.TableRow.mclr (base : Reg) (imm : BitVec 5) :
    Sys2Proof.Laws.TableRow.Statement (.mclr base imm) :=
  wordM_row_FF00 0b11100#5 .zr imm base

theorem Sys2Proof.Laws.TableRow.mclrw (base : Reg) (imm : BitVec 5) :
    Sys2Proof.Laws.TableRow.Statement (.mclrw base imm) :=
  wordM_row_FF00 0b11101#5 .zr imm base
end

