-- ==== Sys2Proof/Laws/Shapes.lean ====
section
/-! SUPPORT. One lemma for each shared operation that says once everything it can do; later proofs cite these
instead of unfolding the operation. -/

namespace Sys2Proof.Machine

variable {s t : State}

/-- A held instruction changes nothing; otherwise what follows the hold answers (R27). -/
theorem hold_next {sources : List Reg} {go : Result} (h : hold sources s go = .next t) :
    (∃ r ∈ sources, s.pending r = true) ∧ t = s ∨ (∀ r ∈ sources, s.pending r = false) ∧ go = .next t := by
  unfold hold at h
  split at h
  · rename_i hp
    exact .inl ⟨by simpa using hp, by simpa using h.symm⟩
  · rename_i hp
    exact .inr ⟨by simpa using hp, h⟩

/-- With no source pending the hold is passed (R27). -/
theorem hold_ready {sources : List Reg} (go : Result) (h : ∀ r ∈ sources, s.pending r = false) :
    hold sources s go = go := by
  unfold hold
  rw [if_neg]
  simpa using h

/-- With a source pending the instruction is held and nothing changes (R27). -/
theorem hold_pending {sources : List Reg} (go : Result) {r : Reg} (hr : r ∈ sources)
    (h : s.pending r = true) : hold sources s go = .next s := by
  unfold hold
  rw [if_pos]
  exact List.any_eq_true.mpr ⟨r, hr, h⟩

/-- A write of a destination (R28): it raises the fault of a pending one, or writes value and flags and advances. -/
theorem writeBack_ready {rd : Reg} (v : Word) (flags : State → State) (h : s.pending rd = false) :
    writeBack rd v flags s = .next ((flags s).setReg rd v).advance := by
  simp [writeBack, h]

theorem writeBack_pending {rd : Reg} (v : Word) (flags : State → State) (h : s.pending rd = true) :
    writeBack rd v flags s = takeTrap (.pendingWrite rd) s := by
  simp [writeBack, h]

/-- A linking jump (R175). -/
theorem linkAndJump_ready (a : Word) (h : s.pending .rp = false) :
    linkAndJump a s = .next ((s.setReg .rp (s.addr + s.params.linkOffset)).jumpTo a) := by
  simp [linkAndJump, h]

theorem linkAndJump_pending (a : Word) (h : s.pending .rp = true) :
    linkAndJump a s = takeTrap (.pendingWrite .rp) s := by
  simp [linkAndJump, h]

/-- A trap with no TRAP_ENTRY ends the run (R284). -/
theorem takeTrap_absent (cause : Cause) (h : s.platform.trapEntry = none) :
    takeTrap cause s = .fault (.trap cause s.addr) := by
  simp [takeTrap, h]

/-- A trap with a TRAP_ENTRY enters it (R283). -/
theorem takeTrap_entry (cause : Cause) {e : TrapEntry} (h : s.platform.trapEntry = some e) :
    takeTrap cause s = enterTrap e cause s := by
  simp [takeTrap, h]

/-- A jump: ip is loaded; a taken jump with a flush waiting empties the TLB (R223); everything else stays. -/
theorem State.jumpTo_cases (s : State) (a : Word) :
    s.jumpTo a = s.setIp a ∧ (a &&& 0xFFFE = s.addr + 2 ∨ s.flushPending = false) ∨
    s.jumpTo a = { s.setIp a with tlb := [], flushPending := false } ∧
      a &&& 0xFFFE ≠ s.addr + 2 ∧ s.flushPending = true := by
  by_cases hf : s.flushPending = true
  · by_cases ha : a &&& 0xFFFE = s.addr + 2
    · refine .inl ⟨?_, .inl ha⟩
      simp only [State.jumpTo, State.addr_setIp, ha, hf]
      simp [State.setIp, hf]
    · refine .inr ⟨?_, ha, hf⟩
      have hd : decide (a &&& 0xFFFE ≠ s.addr + 2) = true := decide_eq_true ha
      simp only [State.jumpTo, State.addr_setIp, hf, hd]
      rfl
  · refine .inl ⟨?_, .inr (Bool.eq_false_iff.mpr hf)⟩
    simp only [Bool.not_eq_true] at hf
    simp [State.jumpTo, hf, State.setIp]

@[simp] theorem State.jumpTo_addr (s : State) (a : Word) : (s.jumpTo a).addr = a &&& 0xFFFE := s.addr_setIp a

/-! What the accesses and the writes of a platform leave alone. -/

/-- Memory keeps its canonical form, and every byte of program text that stores are kept from reads as before (R64). -/
structure MemoryKept (s t : State) : Prop where
  wf : Memory.wf s.mem = true → Memory.wf t.mem = true
  text : ∀ a, s.keepsText a = true → t.readByte a = s.readByte a

theorem MemoryKept.of_mem {s t : State} (h : t.mem = s.mem) : MemoryKept s t :=
  ⟨fun hw => h ▸ hw, fun a _ => State.readByte_congr h a⟩

/-- A store changes memory and the record of outstanding stores, and memory is kept. -/
theorem storeByte_frame {a : Word} {v : Byte} (h : storeByte a v s = .ok t) :
    t = { s with mem := t.mem, unfenced := t.unfenced } ∧ MemoryKept s t := by
  obtain ⟨p, -, hk, rfl⟩ := storeByte_ok h
  refine ⟨rfl, fun hw => State.wf_writeByte _ hw _ _, fun b hb => ?_⟩
  rw [State.readByte_writeByte, if_neg (by rintro rfl; rw [hk] at hb; cases hb)]
  rfl

theorem storeWord_frame {a v : Word} (h : storeWord a v s = .ok t) :
    t = { s with mem := t.mem, unfenced := t.unfenced } ∧ MemoryKept s t := by
  obtain ⟨-, p, q, -, -, hp, hq, rfl⟩ := storeWord_ok h
  refine ⟨rfl, fun hw => State.wf_writeByte _ (State.wf_writeByte _ hw _ _) _ _, fun b hb => ?_⟩
  rw [State.readByte_writeByte, if_neg (by rintro rfl; rw [hq] at hb; cases hb),
    State.readByte_writeByte, if_neg (by rintro rfl; rw [hp] at hb; cases hb)]
  rfl

/-- What a platform's further writes leave alone beside memory: the registers they do not name, the loads in flight, ip,
a waiting entry, the counters, and everything outside the machine. -/
structure KeptByWrites (targets : List Reg) (s t : State) : Prop where
  memory : MemoryKept s t
  reg : ∀ r, r ∉ targets → t.reg r = s.reg r
  rest : t = { s with regs := t.regs, csrs := t.csrs, flags := t.flags, savedFlags := t.savedFlags, ira := t.ira,
                      pen := t.pen, masked := t.masked, tlb := t.tlb, flushPending := t.flushPending, mem := t.mem,
                      unfenced := t.unfenced }

theorem KeptByWrites.refl (targets : List Reg) (s : State) : KeptByWrites targets s s :=
  ⟨.of_mem rfl, fun _ _ => rfl, rfl⟩

/-- Two states with the same parameters and image keep the same text. -/
theorem State.keepsText_congr {s t : State} (hp : t.params = s.params) (hi : t.image = s.image) (a : Word) :
    t.keepsText a = s.keepsText a := by simp [State.keepsText, State.inImage, hp, hi]

theorem MemoryKept.trans {s t u : State} (h1 : MemoryKept s t) (h2 : MemoryKept t u) (hp : t.params = s.params)
    (hi : t.image = s.image) : MemoryKept s u :=
  ⟨fun hw => h2.wf (h1.wf hw), fun a ha =>
    (h2.text a ((State.keepsText_congr hp hi a).trans ha)).trans (h1.text a ha)⟩

theorem KeptByWrites.trans {rs : List Reg} {s t u : State} (h1 : KeptByWrites rs s t) (h2 : KeptByWrites rs t u) :
    KeptByWrites rs s u :=
  ⟨h1.memory.trans h2.memory (by rw [h1.rest]) (by rw [h1.rest]),
    fun r hr => (h2.reg r hr).trans (h1.reg r hr), by
      have e1 := h1.rest
      have e2 := h2.rest
      rw [e1] at e2
      exact e2⟩

/-- One further write of a platform (R289). -/
theorem TrapWrite.apply_ok {info : Word} {w : TrapWrite} {s t u : State} {rs : List Reg}
    (h : w.apply info s t = .ok u) (hr : ∀ r ∈ w.targets, r ∈ rs) : KeptByWrites rs t u := by
  cases w with
  | reg r e =>
    simp only [TrapWrite.apply] at h
    cases he : e.value info s with
    | error e' => rw [he] at h; cases h
    | ok v =>
      rw [he] at h; cases h
      refine ⟨.of_mem rfl, fun q hq => ?_, rfl⟩
      rw [State.reg_setReg, if_neg]
      rintro ⟨rfl, -⟩
      exact hq (hr q (by simp [TrapWrite.targets]))
  | csr _ e | ira e | flags e | savedFlags e | masked e | pen e | flushTlb e | flushWaits e | fence e =>
    simp only [TrapWrite.apply] at h
    cases he : e.value info s with
    | error e' => rw [he] at h; cases h
    | ok v => rw [he] at h; cases h; exact ⟨.of_mem rfl, fun _ _ => rfl, rfl⟩
  | memory a e =>
    simp only [TrapWrite.apply] at h
    cases ha : a.value info s with
    | error e' => rw [ha] at h; cases h
    | ok v =>
      cases he : e.value info s with
      | error e' => rw [ha, he] at h; cases h
      | ok w =>
        rw [ha, he] at h
        obtain ⟨e, hm⟩ := storeWord_frame h
        exact ⟨hm, fun _ _ => by rw [e]; rfl, by rw [e]⟩

/-- All further writes of a platform. -/
theorem applyWrites_ok {info : Word} {s : State} {ws : List TrapWrite} {t u : State}
    (h : applyWrites info s ws t = .ok u) : KeptByWrites (ws.flatMap TrapWrite.targets) t u := by
  suffices key : ∀ rs : List Reg, (∀ w ∈ ws, ∀ r ∈ w.targets, r ∈ rs) → KeptByWrites rs t u from
    key _ fun w hw r hr => List.mem_flatMap.mpr ⟨w, hw, hr⟩
  induction ws generalizing t with
  | nil => intro rs _; cases h; exact .refl _ _
  | cons w ws ih =>
    intro rs hrs
    simp only [applyWrites] at h
    cases hw : w.apply info s t with
    | error e => rw [hw] at h; cases h
    | ok t' =>
      rw [hw] at h
      exact (TrapWrite.apply_ok hw (hrs w (by simp))).trans (ih h rs fun w' hw' => hrs w' (by simp [hw']))

/-! Taking a trap and returning. -/

theorem answer_next {m : Except Refusal State} (h : answer m = .next t) : m = .ok t := by
  cases m <;> cases h
  rfl

/-- An entry that completes (R289): the values it was computed from, the state after the further writes, the save of rp,
and the state it ends in. -/
theorem completeEntry_ok {q : TrapSequence} {cause : Cause} (h : completeEntry q cause s = .ok t) :
    ∃ save handler rpAfter u v, q.rpSave.value cause.info s = .ok save ∧ q.handler.value cause.info s = .ok handler ∧
      q.rpAfter.mapM (TrapExpr.value cause.info s) = .ok rpAfter ∧
      applyWrites cause.info s q.writes (penAfterEntry cause s) = .ok u ∧ storeWord save (s.regAtTrap .rp) u = .ok v ∧
      t = ((rpAfter.elim id (State.setReg .rp)) { v with
        ira := q.returnAddress cause s.addr, entering := none, masked := q.masks || v.masked, draws := s.draws + 1,
        savedFlags := if q.savesFlags then s.flags else v.savedFlags }).setIp handler := by
  simp only [completeEntry] at h
  cases h1 : q.rpSave.value cause.info s with
  | error e => rw [h1] at h; cases h
  | ok save =>
  cases h2 : q.handler.value cause.info s with
  | error e => rw [h1, h2] at h; cases h
  | ok handler =>
  cases h3 : q.rpAfter.mapM (TrapExpr.value cause.info s) with
  | error e => rw [h1, h2, h3] at h; cases h
  | ok rpAfter =>
  cases h4 : applyWrites cause.info s q.writes (penAfterEntry cause s) with
  | error e => rw [h1, h2, h3, h4] at h; cases h
  | ok u =>
  cases h5 : storeWord save (s.regAtTrap .rp) u with
  | error e =>
    rw [h1, h2, h3, h4] at h
    simp only [bind, Except.bind, h5] at h
    cases h
  | ok v =>
    rw [h1, h2, h3, h4] at h
    simp only [bind, Except.bind, h5] at h
    refine ⟨save, handler, rpAfter, u, v, rfl, rfl, rfl, rfl, h5, ?_⟩
    cases rpAfter <;> (cases h; rfl)

/-- What an entry that completes leaves as it was, and that it no longer waits. -/
theorem completeEntry_kept {q : TrapSequence} {cause : Cause} (h : completeEntry q cause s = .ok t) :
    MemoryKept s t ∧ t.image = s.image ∧ t.params = s.params ∧ t.platform = s.platform ∧ t.code = s.code ∧
    t.inflight = s.inflight ∧ t.inputs = s.inputs ∧ t.clock = s.clock ∧ t.entering = none ∧
    t.ira = q.returnAddress cause s.addr := by
  obtain ⟨save, handler, rpAfter, u, v, -, -, -, hu, hv, rfl⟩ := completeEntry_ok h
  obtain ⟨hm, -, hr⟩ := applyWrites_ok hu
  obtain ⟨hv, hm'⟩ := storeWord_frame hv
  have hmem := (MemoryKept.of_mem (by simp)).trans (s := s) (hm.trans hm' (by rw [hr]) (by rw [hr])) (by simp) (by simp)
  rw [hr] at hv
  rw [hv] at hmem ⊢
  cases rpAfter <;> refine ⟨⟨hmem.wf, hmem.text⟩, ?_⟩ <;> simp

/-- An entry that answers a state waits for a register it needs, or completed (R289, R291). -/
theorem enterTrap_next {e : TrapEntry} {cause : Cause} (h : enterTrap e cause s = .next t) :
    (∃ r ∈ (e.sequence cause).needs, s.pending r = true) ∧ t = { s with entering := some cause } ∨
    (∀ r ∈ (e.sequence cause).needs, s.pending r = false) ∧ completeEntry (e.sequence cause) cause s = .ok t := by
  simp only [enterTrap] at h
  split at h
  · rename_i hp
    exact .inl ⟨by simpa using hp, by simpa using h.symm⟩
  · rename_i hp
    exact .inr ⟨by simpa using hp, answer_next h⟩

/-- With a register it needs pending the entry waits (R289, R291). -/
theorem enterTrap_waits {e : TrapEntry} {cause : Cause} {r : Reg} (hr : r ∈ (e.sequence cause).needs)
    (h : s.pending r = true) : enterTrap e cause s = .next { s with entering := some cause } := by
  simp only [enterTrap]
  rw [if_pos (List.any_eq_true.mpr ⟨r, hr, h⟩)]

/-- With the registers it needs ready the entry is its completion (R289). -/
theorem enterTrap_ready {e : TrapEntry} {cause : Cause} (h : ∀ r ∈ (e.sequence cause).needs, s.pending r = false) :
    enterTrap e cause s = answer (completeEntry (e.sequence cause) cause s) := by
  simp only [enterTrap]
  rw [if_neg (by simpa using h)]

/-- A trap that answers a state went through an entry (R283, R284). -/
theorem takeTrap_next {cause : Cause} (h : takeTrap cause s = .next t) :
    ∃ e, s.platform.trapEntry = some e ∧ enterTrap e cause s = .next t := by
  unfold takeTrap at h
  split at h
  · cases h
  · exact ⟨_, ‹_›, h⟩

/-- A return that completes (R292): the state after the further writes, and the state it ends in. -/
theorem completeReturn_ok {r : TrapReturn} (h : completeReturn r s = .ok t) :
    ∃ rp u, (r.rpReload.mapM fun a => TrapExpr.value 0 s (.word a)) = .ok rp ∧
      applyWrites 0 s r.writes (if r.restoresFlags then s.setFlags s.savedFlags else s) = .ok u ∧
      t = ((rp.elim id (if r.reloadPends then State.startLoad .rp else State.setReg .rp))
        { u with masked := !r.unmasks && u.masked, draws := s.draws + 1 }).setIp s.ira := by
  simp only [completeReturn] at h
  cases h1 : r.rpReload.mapM fun a => TrapExpr.value 0 s (.word a) with
  | error e => rw [h1] at h; cases h
  | ok rp =>
  cases h2 : applyWrites 0 s r.writes (if r.restoresFlags then s.setFlags s.savedFlags else s) with
  | error e =>
    rw [h1] at h
    simp only [bind, Except.bind, h2] at h
    cases h
  | ok u =>
    rw [h1] at h
    simp only [bind, Except.bind, h2] at h
    refine ⟨rp, u, rfl, rfl, ?_⟩
    cases rp <;> cases h
    · rfl
    · generalize r.reloadPends = pends
      cases pends <;> rfl

/-- What a return that completes leaves as it was. -/
theorem completeReturn_kept {r : TrapReturn} (h : completeReturn r s = .ok t) :
    MemoryKept s t ∧ t.image = s.image ∧ t.params = s.params ∧ t.platform = s.platform ∧ t.code = s.code ∧
    t.inputs = s.inputs ∧ t.clock = s.clock ∧ t.entering = s.entering ∧ ∀ q, q ≠ .rp → t.awaited q = s.awaited q := by
  obtain ⟨rp, u, -, hu, rfl⟩ := completeReturn_ok h
  obtain ⟨hm, -, hr⟩ := applyWrites_ok hu
  have hmem : MemoryKept s u := by
    refine MemoryKept.trans (.of_mem ?_) hm ?_ ?_ <;> split <;> simp
  have hsame : u.image = s.image ∧ u.params = s.params ∧ u.platform = s.platform ∧ u.code = s.code ∧
      u.inputs = s.inputs ∧ u.clock = s.clock ∧ u.entering = s.entering ∧ u.inflight = s.inflight := by
    rw [hr]; split <;> simp
  obtain ⟨h1, h2, h3, h4, h5, h6, h7, h8⟩ := hsame
  generalize r.reloadPends = pends
  cases rp <;> cases pends <;> refine ⟨⟨hmem.wf, hmem.text⟩, h1, h2, h3, h4, h5, h6, h7, fun q hq => ?_⟩
  case some.true => exact (State.awaited_startLoad ..).trans ((if_neg (hq ·.1)).trans (State.awaited_congr h8 q))
  all_goals exact State.awaited_congr h8 q

/-- Everything rfi can answer as a state (R27, R28, R292): it is held, a pending register it writes faults, or the
return completes. -/
theorem returnFromTrap_next {r : TrapReturn} (h : returnFromTrap r s = .next t) :
    t = s ∨ (∃ rd, r.targets.find? s.pending = some rd ∧ takeTrap (.pendingWrite rd) s = .next t) ∨
    completeReturn r s = .ok t := by
  rcases hold_next h with ⟨-, h⟩ | ⟨-, h⟩
  · exact .inl h
  · split at h
    · exact .inr (.inl ⟨_, ‹_›, h⟩)
    · exact .inr (.inr (answer_next h))

/-! Steps. -/

/-- What the machine does between events. -/
theorem proceed_entering {cause : Cause} (h : s.entering = some cause) : proceed s = takeTrap cause s := by
  simp [proceed, h]

theorem proceed_running (h : s.entering = none) : proceed s = runInstruction s := by
  simp [proceed, h]

/-- Everything a step can do (R29, R286, R289): proceed, or one event that can occur. -/
theorem step_cases (s : State) :
    step s = proceed s.tick ∨
    (∃ r, s.pending r = true ∧ step s = .next (s.tick.resolve r)) ∨
    (s.platform.interruptSource = true ∧ step s = .next s.tick.requestInterrupt) ∨
    (s.platform.interruptSource = true ∧ s.pen = true ∧ s.masked = false ∧ s.entering = none ∧
      step s = takeTrap .interrupt s.tick) := by
  simp only [step]
  split
  · exact .inl rfl
  · split
    · exact .inl rfl
    · split
      · exact .inr (.inl ⟨_, ‹_›, rfl⟩)
      · exact .inl rfl
    · split
      · exact .inr (.inr (.inl ⟨‹_›, rfl⟩))
      · exact .inl rfl
    · split
      · rename_i h
        simp only [Bool.and_eq_true, Bool.not_eq_true', Option.isNone_iff_eq_none] at h
        exact .inr (.inr (.inr ⟨h.1.1.1, h.1.1.2, h.1.2, h.2, rfl⟩))
      · exact .inl rfl

/-- An instruction that runs was fetched and decoded. -/
theorem runInstruction_next (h : runInstruction s = .next t) :
    ∃ i, s.fetched = .ok i ∧ exec i s = .next t := by
  unfold runInstruction at h
  split at h
  · exact ⟨_, ‹_›, h⟩
  · cases h

end Sys2Proof.Machine
end

