-- ==== Sys2Proof/Laws/Values.lean ====
section
/-! SUPPORT. What each computation gives, in plain arithmetic: the carry rule (R34), the extensions (R90), the
shifts (R150) and the targets (R175 to R184); and what each flag class leaves. -/

namespace Sys2Proof.Machine

/-! The carry rule. -/

theorem addWithCarry_value (a b : Word) (cin : Bool) :
    (addWithCarry a b cin).value = a + b + (if cin then 1 else 0) := by
  apply BitVec.eq_of_toNat_eq
  cases cin <;> simp [addWithCarry]

theorem addWithCarry_carry (a b : Word) (cin : Bool) :
    (addWithCarry a b cin).carry = decide (2 ^ 16 ≤ a.toNat + b.toNat + (if cin then 1 else 0)) := by
  have ha := a.isLt
  have hb := b.isLt
  cases cin <;> simp [addWithCarry, Nat.testBit_eq_decide_div_mod_eq] <;> omega

theorem subWithCarry_value (p : Params) (a b : Word) (cin : Bool) :
    (subWithCarry p a b cin).value = a - b - (if cin then 0 else 1) := by
  have ha := a.isLt
  have hb := b.isLt
  simp only [subWithCarry, addWithCarry_value]
  apply BitVec.eq_of_toNat_eq
  cases cin <;> simp [BitVec.toNat_sub, BitVec.toNat_not] <;> omega

theorem subWithCarry_carry {p : Params} (h : p.subCarryNotBorrow = true) (a b : Word) (cin : Bool) :
    (subWithCarry p a b cin).carry = decide (b.toNat + (if cin then 0 else 1) ≤ a.toNat) := by
  have ha := a.isLt
  have hb := b.isLt
  simp only [subWithCarry, h, if_true, addWithCarry_carry]
  cases cin <;> simp [BitVec.toNat_not] <;> omega

/-! The flag classes: each writes the flags and counts at most one draw. -/

theorem arithFlags_frame (t : Sum) (s : State) :
    ∃ f, arithFlags t s = { s with flags := f } := ⟨_, rfl⟩

theorem logicFlags_frame (v : Word) (s : State) :
    ∃ f, logicFlags v s = { s with flags := f, draws := s.draws + 1 } := ⟨_, rfl⟩

theorem freeFlags_frame (v : Word) (s : State) :
    ∃ f, freeFlags v s = { s with flags := f, draws := s.draws + 1 } := ⟨_, rfl⟩

/-! The immediates. -/

theorem sext8_eq_ofInt (imm : BitVec 8) : sext8 imm = BitVec.ofInt 16 imm.toInt := by
  simp [sext8, BitVec.signExtend]

theorem zext8_eq_ofNat (imm : BitVec 8) : zext8 imm = BitVec.ofNat 16 imm.toNat := by
  simp [zext8]

theorem upper8_eq_ofNat (imm : BitVec 8) : upper8 imm = BitVec.ofNat 16 (imm.toNat * 256) := by
  apply BitVec.eq_of_toNat_eq
  have h := imm.isLt
  simp only [upper8, BitVec.toNat_append, BitVec.toNat_ofNat]
  simp [Nat.shiftLeft_eq]
  omega

/-! The shifts. -/

theorem shiftLeft_eq_ofNat (v : Word) (n : Nat) : shiftLeft v n = BitVec.ofNat 16 (v.toNat * 2 ^ n) := by
  apply BitVec.eq_of_toNat_eq
  simp [shiftLeft, Nat.shiftLeft_eq]

theorem shiftRight_eq_ofNat (v : Word) (n : Nat) : shiftRight v n = BitVec.ofNat 16 (v.toNat / 2 ^ n) := by
  apply BitVec.eq_of_toNat_eq
  simp [shiftRight, Nat.shiftRight_eq_div_pow]
  exact (Nat.mod_eq_of_lt (lt_of_le_of_lt (Nat.div_le_self _ _) v.isLt)).symm

theorem shiftRightSigned_eq_ofInt (v : Word) (n : Nat) :
    shiftRightSigned v n = BitVec.ofInt 16 (v.toInt / 2 ^ n) := by
  simp [shiftRightSigned, BitVec.sshiftRight, Int.shiftRight_eq_div_pow]

theorem rotateRight_getLsbD (v : Word) (n j : Nat) (hj : j < 16) :
    (rotateRight v n).getLsbD j = v.getLsbD ((j + n) % 16) := by
  have hn : n % 16 < 16 := Nat.mod_lt _ (by decide)
  have e : (j + n) % 16 = (j + n % 16) % 16 := by omega
  rw [e, rotateRight]
  generalize n % 16 = m at hn
  simp only [BitVec.getLsbD_or, BitVec.getLsbD_ushiftRight, BitVec.getLsbD_shiftLeft]
  by_cases h : j + m < 16
  · rw [Nat.mod_eq_of_lt h]
    simp [show j < 16 - m by omega, Nat.add_comm]
  · rw [BitVec.getLsbD_of_ge v (m + j) (by omega), show (j + m) % 16 = j - (16 - m) by omega]
    simp [hj, show ¬ j < 16 - m by omega]

/-! The targets. -/

theorem absTarget_eq_ofNat (imm : BitVec 11) : absTarget imm = BitVec.ofNat 16 (imm.toNat * 32) := by
  apply BitVec.eq_of_toNat_eq
  have h := imm.isLt
  simp only [absTarget, BitVec.toNat_append, BitVec.toNat_ofNat]
  simp [Nat.shiftLeft_eq]
  omega

/-- A signed field doubled. -/
theorem signExtend_shiftLeft_one {w : Nat} (imm : BitVec w) :
    (imm.signExtend 16 <<< 1 : Word) = BitVec.ofInt 16 (2 * imm.toInt) := by
  have h : BitVec.ofInt 16 (2 * imm.toInt) = BitVec.ofInt 16 2 * BitVec.ofInt 16 imm.toInt := BitVec.ofInt_mul ..
  rw [h]
  apply BitVec.eq_of_toNat_eq
  simp [BitVec.signExtend, Nat.shiftLeft_eq, Nat.mul_comm]

end Sys2Proof.Machine
end

