-- ==== Sys2Proof/Laws/SpecChoice.lean ====
section
/-! SUPPORT. The operations that depend on a parameter of R7 or on VM, at the spec's choice of the parameters and with
translation off: what is left of them there. -/

namespace Sys2Proof.Machine

variable {s : State}

/-! The parameters alone. -/

theorem State.effective_spec (h : s.params = Params.spec) (base offset : Word) :
    s.effective base offset = .ok (base + offset) := by simp [State.effective, h, Params.spec]

theorem State.misaligned_spec (h : s.params = Params.spec) (a : Word) : s.misaligned a = oddAddress a := by
  simp [State.misaligned, h, Params.spec]

theorem State.keepsText_spec (h : s.params = Params.spec) (a : Word) : s.keepsText a = s.inImage a := by
  simp [State.keepsText, h, Params.spec]

theorem State.unordered_spec (h : s.params = Params.spec) (a : Word) : s.unordered a = false := by
  simp [State.unordered, h, Params.spec]

theorem State.recordStore_spec (h : s.params = Params.spec) (a : Word) : s.recordStore a = s := by
  have hm : s.params.memOrder ≠ .fenced := by rw [h]; decide
  simp only [State.recordStore, if_neg hm]

theorem State.loadDrawn_spec (h : s.params = Params.spec) : s.loadDrawn = s := by
  have hm : s.params.memOrder ≠ .fenced := by rw [h]; decide
  simp only [State.loadDrawn, if_neg hm]

theorem State.fetchByte_spec (h : s.params = Params.spec) (a : Word) : s.fetchByte a = s.readByte a := by
  simp [State.fetchByte, h, Params.spec]

theorem storedByte_spec (v : Word) : storedByte Params.spec v = lowByte v := rfl

theorem arrangeBytes_spec (b0 b1 : Byte) : arrangeBytes Params.spec b0 b1 = [b0, b1] := rfl

theorem Sum.sign_spec (t : Sum) : t.sign Params.spec = t.value.msb := by
  simp [Sum.sign, Params.spec, signOf, BitVec.msb_eq_getLsbD_last]

theorem relTarget11_spec (a : Word) (imm : BitVec 11) :
    relTarget11 Params.spec a imm = a + 2 + BitVec.ofInt 16 (2 * imm.toInt) := by
  simp only [relTarget11, signExtend_shiftLeft_one]; rfl

theorem relTarget8_spec (a : Word) (imm : BitVec 8) :
    relTarget8 Params.spec a imm = a + 2 + BitVec.ofInt 16 (2 * imm.toInt) := by
  simp only [relTarget8, signExtend_shiftLeft_one]; rfl

/-! Translation off. -/

theorem State.translate_identity (hv : s.platform.vm = []) (a : Word) : s.translate a = some a := by
  simp [State.translate, hv, translateBy]

/-! Both: the memory accesses (R57, R62, R64). -/

theorem loadByte_spec (h : s.params = Params.spec) (hv : s.platform.vm = []) (a : Word) :
    loadByte a s = .ok (s.readByte a) := by
  simp [loadByte, State.translate_identity hv, State.unordered_spec h]

theorem loadWord_spec (h : s.params = Params.spec) (hv : s.platform.vm = []) (a : Word) :
    loadWord a s = if oddAddress a then .error .misalignedWord else .ok (s.readWord a) := by
  simp [loadWord, State.translate_identity hv, State.unordered_spec h, State.misaligned_spec h, State.readWord]

theorem storeByte_spec (h : s.params = Params.spec) (hv : s.platform.vm = []) (a : Word) (v : Byte) :
    storeByte a v s = if s.inImage a then .error .storeToText else .ok (s.writeByte a v) := by
  simp [storeByte, State.translate_identity hv, State.keepsText_spec h, State.recordStore_spec h]

theorem storeWord_spec (h : s.params = Params.spec) (hv : s.platform.vm = []) (a v : Word) :
    storeWord a v s = if oddAddress a then .error .misalignedWord
      else if s.inImage a || s.inImage (a + 1) then .error .storeToText else .ok (s.writeWord a v) := by
  simp only [storeWord, State.translate_identity hv, State.keepsText_spec h, State.recordStore_spec h,
    State.misaligned_spec h]
  rfl

theorem State.fetchBytes_spec (h : s.params = Params.spec) (hv : s.platform.vm = []) :
    s.fetchBytes = .ok [s.readByte s.addr, s.readByte (s.addr + 1)] := by
  simp only [State.fetchBytes, State.translate_identity hv, State.fetchByte_spec h, h, arrangeBytes_spec]

end Sys2Proof.Machine
end

