-- ==== Sys2Proof/Tests/Slice0.lean ====
section
/-! SUPPORT. The model's own tests: what well-formedness refuses, one word of every row written out from its
pattern in spec/30_encoding.md or 47_pseudo_and_directives.md, a few vectors of spec/95_test_vectors.md (the expected
values are that file's), and a state that meets the hypotheses of each obligation that has some. -/

namespace Sys2Proof.Tests

open Sys2Proof Sys2Proof.Machine Sys2Proof.Safety

/-! ## Well-formedness refuses the spellings whose word is another instruction's (R92, R241, R242) -/

theorem test_wf_refuses_add_zr_zr_zr : Instr.wf (.add .zr .zr .zr) = false := rfl
theorem test_wf_refuses_addi_zr_0 : Instr.wf (.addi .zr 0) = false := rfl
theorem test_wf_refuses_jmpd_zr : Instr.wf (.jmpd .zr) = false := rfl
theorem test_wf_refuses_mov_zr_zr : Instr.wf (.mov .zr .zr) = false := rfl
theorem test_wf_refuses_test_zr : Instr.wf (.test .zr) = false := rfl
theorem test_wf_accepts_neighbours :
    Instr.wf (.add .zr .zr .rp) = true ∧ Instr.wf (.addi .zr 1) = true ∧ Instr.wf (.jmpdl .zr) = true := ⟨rfl, rfl, rfl⟩

/-! ## Every row's word, field by field as its pattern prints it -/

theorem test_decode_add : decode 0b00000_011_00_100_101 = .ok (.add .x1 .x2 .x3) := rfl
theorem test_decode_addc : decode 0b00000_011_01_100_101 = .ok (.addc .x1 .x2 .x3) := rfl
theorem test_decode_sub : decode 0b00000_011_10_100_101 = .ok (.sub .x1 .x2 .x3) := rfl
theorem test_decode_subb : decode 0b00000_011_11_100_101 = .ok (.subb .x1 .x2 .x3) := rfl
theorem test_decode_addi : decode 0b00001_011_11111011 = .ok (.addi .x1 0xFB) := rfl
theorem test_decode_cmpi : decode 0b00010_011_00000101 = .ok (.cmpi .x1 0x05) := rfl
theorem test_decode_csrr : decode 0b00011_011_00_000000 = .ok (.csrr .x1 0) := rfl
theorem test_decode_csrw : decode 0b00011_011_01_000001 = .ok (.csrw .x1 1) := rfl
theorem test_decode_slt : decode 0b00011_110_10_011_100 = .ok (.slt .t1 .x1 .x2) := rfl
theorem test_decode_sltu : decode 0b00011_110_11_011_100 = .ok (.sltu .t1 .x1 .x2) := rfl
theorem test_decode_szr : decode 0b00100_011_00_100_101 = .ok (.szr .x1 .x2 .x3) := rfl
theorem test_decode_ior : decode 0b00100_011_01_100_101 = .ok (.ior .x1 .x2 .x3) := rfl
theorem test_decode_and : decode 0b00100_011_10_100_101 = .ok (.and .x1 .x2 .x3) := rfl
theorem test_decode_xor : decode 0b00100_011_11_100_101 = .ok (.xor .x1 .x2 .x3) := rfl
theorem test_decode_iori : decode 0b00101_011_10000000 = .ok (.iori .x1 0x80) := rfl
theorem test_decode_ioriu : decode 0b00110_011_10000000 = .ok (.ioriu .x1 0x80) := rfl
theorem test_decode_andi : decode 0b00111_011_11110000 = .ok (.andi .x1 0xF0) := rfl
theorem test_decode_andiu : decode 0b01000_011_11110000 = .ok (.andiu .x1 0xF0) := rfl
theorem test_decode_biti : decode 0b01001_011_00000001 = .ok (.biti .x1 0x01) := rfl
theorem test_decode_xori : decode 0b01010_011_00000001 = .ok (.xori .x1 0x01) := rfl
theorem test_decode_xoriu : decode 0b01011_011_11111111 = .ok (.xoriu .x1 0xFF) := rfl
theorem test_decode_bsl : decode 0b01100_011_0_0100_100 = .ok (.bsl .x1 .x2 4) := rfl
theorem test_decode_bsr : decode 0b01100_011_1_0100_100 = .ok (.bsr .x1 .x2 4) := rfl
theorem test_decode_bsrs : decode 0b01101_011_0_0100_100 = .ok (.bsrs .x1 .x2 4) := rfl
theorem test_decode_brr : decode 0b01101_011_1_0100_100 = .ok (.brr .x1 .x2 4) := rfl
theorem test_decode_bsld : decode 0b01110_011_00_100_101 = .ok (.bsld .x1 .x2 .x3) := rfl
theorem test_decode_bsrd : decode 0b01110_011_01_100_101 = .ok (.bsrd .x1 .x2 .x3) := rfl
theorem test_decode_bsrsd : decode 0b01110_011_10_100_101 = .ok (.bsrsd .x1 .x2 .x3) := rfl
theorem test_decode_brrd : decode 0b01110_011_11_100_101 = .ok (.brrd .x1 .x2 .x3) := rfl
theorem test_decode_lli : decode 0b10000_011_10000000 = .ok (.lli .x1 0x80) := rfl
theorem test_decode_lui : decode 0b10001_011_00010010 = .ok (.lui .x1 0x12) := rfl
theorem test_decode_jmp : decode 0b10010_00000010000 = .ok (.jmp 0x010) := rfl
theorem test_decode_jmpl : decode 0b10011_00000010000 = .ok (.jmpl 0x010) := rfl
theorem test_decode_jmpr : decode 0b10100_00000000011 = .ok (.jmpr 3) := rfl
theorem test_decode_jmprl : decode 0b10101_11111111000 = .ok (.jmprl 0x7F8) := rfl
theorem test_decode_jmpd : decode 0b10110_011_00000000 = .ok (.jmpd .x1) := rfl
theorem test_decode_jmpdl : decode 0b10111_011_00000000 = .ok (.jmpdl .x1) := rfl
theorem test_decode_brh : decode 0b11000_110_11111101 = .ok (.brh .nz 0xFD) := rfl
theorem test_decode_prfi : decode 0b11001_00000000001 = .ok (.prfi 1) := rfl
theorem test_decode_mld : decode 0b11010_011_00011_010 = .ok (.mld .x1 .sp 3) := rfl
theorem test_decode_mldw : decode 0b11011_011_00011_010 = .ok (.mldw .x1 .sp 3) := rfl
theorem test_decode_mst : decode 0b11100_011_00011_010 = .ok (.mst .x1 .sp 3) := rfl
theorem test_decode_mstw : decode 0b11101_011_00011_010 = .ok (.mstw .x1 .sp 3) := rfl
theorem test_decode_xch : decode 0b11110_011_00000_100 = .ok (.xch .x1 .x2 0) := rfl
theorem test_decode_xchw : decode 0b11111_011_00001_100 = .ok (.xchw .x1 .x2 1) := rfl
theorem test_decode_bkpt : decode 0b00000_000_00_000_000 = .ok (.bkpt) := rfl
theorem test_decode_nop : decode 0b00001_000_00000000 = .ok (.nop) := rfl
theorem test_decode_sysc : decode 0b10110_000_00000111 = .ok (.sysc 7) := rfl
theorem test_decode_fence : decode 0b10111_000_00000001 = .ok (.fence) := rfl
theorem test_decode_ftlb : decode 0b10111_000_00000010 = .ok (.ftlb) := rfl
theorem test_decode_rfi : decode 0b10111_000_00000100 = .ok (.rfi) := rfl
theorem test_decode_wfi : decode 0b10111_000_00001000 = .ok (.wfi) := rfl
theorem test_decode_scf : decode 0b10111_000_00010000 = .ok (.scf) := rfl
theorem test_decode_rscf : decode 0b10111_000_00100000 = .ok (.rscf) := rfl
theorem test_decode_reserved_b840 : decode 0b10111_000_01000000 = .ok (.reservedB840) := rfl
theorem test_decode_reserved_b880 : decode 0b10111_000_10000000 = .ok (.reservedB880) := rfl
theorem test_decode_reserved_01111 : decode 0b01111_011_00_100_101 = .ok (.reserved01111 .x1 0 .x2 .x3) := rfl
theorem test_decode_reserved_brh_cond_011 : decode 0b11000_011_00000001 = .ok (.reservedBrhCond011 1) := rfl
theorem test_decode_reserved_brh_cond_111 : decode 0b11000_111_00000001 = .ok (.reservedBrhCond111 1) := rfl

/-! The pseudo-instructions (L1.1): the word is theirs and decodes to the base instruction. -/

theorem test_decode_mov : encode (.mov .x1 .x2) = 0b00000_011_00_100_000 ∧
    decode 0b00000_011_00_100_000 = .ok (Instr.base (.mov .x1 .x2)) := ⟨rfl, rfl⟩
theorem test_decode_test : encode (.test .x1) = 0b00000_000_00_011_000 ∧
    decode 0b00000_000_00_011_000 = .ok (Instr.base (.test .x1)) := ⟨rfl, rfl⟩
theorem test_decode_neg : encode (.neg .x1 .x2) = 0b00000_011_10_000_100 ∧
    decode 0b00000_011_10_000_100 = .ok (Instr.base (.neg .x1 .x2)) := ⟨rfl, rfl⟩
theorem test_decode_cmp : encode (.cmp .x1 .x2) = 0b00000_000_10_011_100 ∧
    decode 0b00000_000_10_011_100 = .ok (Instr.base (.cmp .x1 .x2)) := ⟨rfl, rfl⟩
theorem test_decode_inc : encode (.inc .x1) = 0b00001_011_00000001 ∧
    decode 0b00001_011_00000001 = .ok (Instr.base (.inc .x1)) := ⟨rfl, rfl⟩
theorem test_decode_dec : encode (.dec .x1) = 0b00001_011_11111111 ∧
    decode 0b00001_011_11111111 = .ok (Instr.base (.dec .x1)) := ⟨rfl, rfl⟩
theorem test_decode_alloc : encode (.alloc 0xFC) = 0b00001_010_11111100 ∧
    decode 0b00001_010_11111100 = .ok (Instr.base (.alloc 0xFC)) := ⟨rfl, rfl⟩
theorem test_decode_ip : encode (.ip .x1 5) = 0b00011_011_00_000101 ∧
    decode 0b00011_011_00_000101 = .ok (Instr.base (.ip .x1 5)) := ⟨rfl, rfl⟩
theorem test_decode_clri : encode (.clri 5) = 0b00011_000_01_000101 ∧
    decode 0b00011_000_01_000101 = .ok (Instr.base (.clri 5)) := ⟨rfl, rfl⟩
theorem test_decode_sneg : encode (.sneg .t1 .x1) = 0b00011_110_10_011_000 ∧
    decode 0b00011_110_10_011_000 = .ok (Instr.base (.sneg .t1 .x1)) := ⟨rfl, rfl⟩
theorem test_decode_spos : encode (.spos .t1 .x1) = 0b00011_110_10_000_011 ∧
    decode 0b00011_110_10_000_011 = .ok (Instr.base (.spos .t1 .x1)) := ⟨rfl, rfl⟩
theorem test_decode_snez : encode (.snez .t1 .x1) = 0b00011_110_11_000_011 ∧
    decode 0b00011_110_11_000_011 = .ok (Instr.base (.snez .t1 .x1)) := ⟨rfl, rfl⟩
theorem test_decode_cut4 : encode (.cut4 .x1) = 0b01000_011_00001111 ∧
    decode 0b01000_011_00001111 = .ok (Instr.base (.cut4 .x1)) := ⟨rfl, rfl⟩
theorem test_decode_cut8 : encode (.cut8 .x1) = 0b01000_011_11111111 ∧
    decode 0b01000_011_11111111 = .ok (Instr.base (.cut8 .x1)) := ⟨rfl, rfl⟩
theorem test_decode_clrl : encode (.clrl .x1) = 0b01000_011_00000000 ∧
    decode 0b01000_011_00000000 = .ok (Instr.base (.clrl .x1)) := ⟨rfl, rfl⟩
theorem test_decode_not : encode (.not .x1) = 0b01010_011_11111111 ∧
    decode 0b01010_011_11111111 = .ok (Instr.base (.not .x1)) := ⟨rfl, rfl⟩
theorem test_decode_not8 : encode (.not8 .x1) = 0b01011_011_11111111 ∧
    decode 0b01011_011_11111111 = .ok (Instr.base (.not8 .x1)) := ⟨rfl, rfl⟩
theorem test_decode_clr : encode (.clr .x2) = 0b10001_100_00000000 ∧
    decode 0b10001_100_00000000 = .ok (Instr.base (.clr .x2)) := ⟨rfl, rfl⟩
theorem test_decode_ret : encode (.ret) = 0b10110_001_00000000 ∧
    decode 0b10110_001_00000000 = .ok (Instr.base (.ret)) := ⟨rfl, rfl⟩
theorem test_decode_prfd : encode (.prfd .x1 2) = 0b11011_000_00010_011 ∧
    decode 0b11011_000_00010_011 = .ok (Instr.base (.prfd .x1 2)) := ⟨rfl, rfl⟩
theorem test_decode_mclr : encode (.mclr .x1 5) = 0b11100_000_00101_011 ∧
    decode 0b11100_000_00101_011 = .ok (Instr.base (.mclr .x1 5)) := ⟨rfl, rfl⟩
theorem test_decode_mclrw : encode (.mclrw .x1 5) = 0b11101_000_00101_011 ∧
    decode 0b11101_000_00101_011 = .ok (Instr.base (.mclrw .x1 5)) := ⟨rfl, rfl⟩

/-! The words no row fits (L2.8). -/

theorem test_decode_rejects_two_flags :
    decode 0xB803 = .error .reservedControlFlag ∧ decode 0xB8FF = .error .reservedControlFlag := ⟨rfl, rfl⟩
theorem test_decode_rejects_jump_flags :
    decode 0xB301 = .error .unspecifiedJumpFlags ∧ decode 0xBB04 = .error .unspecifiedJumpFlags := ⟨rfl, rfl⟩
theorem test_decode_jmpdl_zr : decode 0xB800 = .ok (.jmpdl .zr) := rfl
theorem test_decode_registers : decode 0x070A = .ok (.add .t2 .rp .sp) := rfl
theorem test_decodeBytes_low_byte_first : decodeBytes [0x25, 0x03] = .ok (.add .x1 .x2 .x3, []) := rfl
theorem test_decodeBytes_truncated : decodeBytes [0x25] = .error .truncated := rfl
theorem test_decodeTableWord : decodeTableWord 16 0x0325 = some (.add .x1 .x2 .x3) := rfl

/-! ## One instruction on a small state -/

/-- A state at address `a` with the registers a test needs. -/
def at_ (a x1 x2 x3 : Word) (flags : Flags) : State :=
  { State.reset with
      ip := a.extractLsb' 1 15, flags := flags,
      regs := { Bank.all 0 with sp := 0x0100, x1 := x1, x2 := x2, x3 := x3 } }

/-- The instruction of a word, run on a state. -/
def run (w : Word) (s : State) : Result :=
  match decode w with
  | .ok i => exec i s
  | .error e => .refused (rejection e)

/-- What is read from the state a result answers. -/
def after {α : Type} (read : State → α) : Result → Option α
  | .next t => some (read t)
  | _ => none

/-- Why a result refused. -/
def why : Result → Option Refusal
  | .refused r => some r
  | _ => none

/-- The fault of a result. -/
def stopped : Result → Option Fault
  | .fault e => some e
  | _ => none

def none_ : Flags := ⟨false, false, false⟩
def carry : Flags := ⟨true, false, false⟩

/-! Arithmetic (L2.1). -/

theorem test_add_wraps : after (fun t => (t.reg .x1, t.flags, t.addr)) (run 0x0325 (at_ 0x0000 0x0 0xFFFF 0x0001 none_)) =
    some (0x0000, ⟨true, false, true⟩, 0x0002) := rfl
theorem test_add_same_register : after (fun t => (t.reg .x1, t.flags, t.addr)) (run 0x031B (at_ 0x0000 0x4000 0x0 0x0 none_)) =
    some (0x8000, ⟨false, true, false⟩, 0x0002) := rfl
theorem test_addc_adds_carry : after (fun t => (t.reg .x1, t.flags, t.addr)) (run 0x0365 (at_ 0x0000 0x0 0xFFFF 0xFFFF carry)) =
    some (0xFFFF, ⟨true, true, false⟩, 0x0002) := rfl
theorem test_sub_borrow : after (fun t => (t.reg .x1, t.flags, t.addr)) (run 0x03A5 (at_ 0x0000 0x0 0x0003 0x0005 carry)) =
    some (0xFFFE, ⟨false, true, false⟩, 0x0002) := rfl
theorem test_sub_overflow_is_silent : after (fun t => (t.reg .x1, t.flags, t.addr)) (run 0x03A5 (at_ 0x0000 0x0 0x8000 0x0001 none_)) =
    some (0x7FFF, ⟨true, false, false⟩, 0x0002) := rfl
theorem test_subb_subtracts_one_more : after (fun t => (t.reg .x1, t.flags, t.addr)) (run 0x03E5 (at_ 0x0000 0x0 0x0000 0xFFFF none_)) =
    some (0x0000, ⟨false, false, true⟩, 0x0002) := rfl
theorem test_addi_minus_five : after (fun t => (t.reg .x1, t.flags, t.addr)) (run 0x0BFB (at_ 0x0000 0x0005 0x0 0x0 none_)) =
    some (0x0000, ⟨true, false, true⟩, 0x0002) := rfl
theorem test_cmpi_sign_extends : after (fun t => (t.reg .x1, t.flags, t.addr)) (run 0x1380 (at_ 0x0000 0x0000 0x0 0x0 carry)) =
    some (0x0000, ⟨false, false, false⟩, 0x0002) := rfl
theorem test_slt_probe : after (fun t => t.reg .t1) (run 0x1E9C (at_ 0x0000 0x8000 0x0001 0x0 none_)) =
    some 0x0001 := rfl
theorem test_sltu_probe : after (fun t => t.reg .t1) (run 0x1EDC (at_ 0x0000 0x8000 0x0001 0x0 none_)) =
    some 0x0000 := rfl

/-! Select and logic (L2.2): c is free, so only s and z are read. -/

theorem test_szr_zero_copies : after (fun t => t.reg .x1) (run 0x2325 (at_ 0x0000 0x1111 0x2222 0x0000 none_)) =
    some 0x2222 := rfl
theorem test_szr_nonzero_keeps : after (fun t => t.reg .x1) (run 0x2325 (at_ 0x0000 0x1111 0x2222 0x0007 none_)) =
    some 0x1111 := rfl
theorem test_ior : after (fun t => (t.reg .x1, t.flags.s, t.flags.z)) (run 0x2365 (at_ 0x0000 0x0 0x00F0 0x0F00 none_)) =
    some (0x0FF0, false, false) := rfl
theorem test_and : after (fun t => (t.reg .x1, t.flags.s, t.flags.z)) (run 0x23A5 (at_ 0x0000 0x0 0xAAAA 0x5555 none_)) =
    some (0x0000, false, true) := rfl
theorem test_xor : after (fun t => (t.reg .x1, t.flags.s, t.flags.z)) (run 0x23E5 (at_ 0x0000 0x0 0xAAAA 0x5555 none_)) =
    some (0xFFFF, true, false) := rfl
theorem test_iori_sign_extends : after (fun t => (t.reg .x1, t.flags.s, t.flags.z)) (run 0x2B80 (at_ 0x0000 0x0001 0x0 0x0 none_)) =
    some (0xFF81, true, false) := rfl
theorem test_ioriu_zero_extends : after (fun t => (t.reg .x1, t.flags.s, t.flags.z)) (run 0x3380 (at_ 0x0000 0x0001 0x0 0x0 none_)) =
    some (0x0081, false, false) := rfl
theorem test_andi_sign_extends : after (fun t => (t.reg .x1, t.flags.s, t.flags.z)) (run 0x3BF0 (at_ 0x0000 0x1234 0x0 0x0 none_)) =
    some (0x1230, false, false) := rfl
theorem test_andiu_zero_extends : after (fun t => (t.reg .x1, t.flags.s, t.flags.z)) (run 0x43F0 (at_ 0x0000 0x1234 0x0 0x0 none_)) =
    some (0x0030, false, false) := rfl
theorem test_biti_low_byte_only : after (fun t => (t.reg .x1, t.flags.s, t.flags.z)) (run 0x4BFF (at_ 0x0000 0x8000 0x0 0x0 none_)) =
    some (0x8000, false, true) := rfl
theorem test_xori_all_bits : after (fun t => (t.reg .x1, t.flags.s, t.flags.z)) (run 0x53FF (at_ 0x0000 0x1234 0x0 0x0 none_)) =
    some (0xEDCB, true, false) := rfl
theorem test_xoriu_low_byte : after (fun t => (t.reg .x1, t.flags.s, t.flags.z)) (run 0x5BFF (at_ 0x0000 0x1234 0x0 0x0 none_)) =
    some (0x12CB, false, false) := rfl

/-! Shifts and load immediate (L2.3, L2.4). -/

theorem test_bsl_15 : after (fun t => t.reg .x1) (run 0x637C (at_ 0x0000 0x0 0x8001 0x0 none_)) =
    some 0x8000 := rfl
theorem test_bsr_4 : after (fun t => t.reg .x1) (run 0x63A4 (at_ 0x0000 0x0 0x8001 0x0 none_)) =
    some 0x0800 := rfl
theorem test_bsrs_4 : after (fun t => t.reg .x1) (run 0x6B24 (at_ 0x0000 0x0 0x8001 0x0 none_)) =
    some 0xF800 := rfl
theorem test_brr_4 : after (fun t => t.reg .x1) (run 0x6BA4 (at_ 0x0000 0x0 0x8001 0x0 none_)) =
    some 0x1800 := rfl
theorem test_brr_0 : after (fun t => t.reg .x1) (run 0x6B84 (at_ 0x0000 0x0 0x8001 0x0 none_)) =
    some 0x8001 := rfl
theorem test_bsld_16_is_0 : after (fun t => t.reg .x1) (run 0x7325 (at_ 0x0000 0x0 0x8001 0x0010 none_)) =
    some 0x8001 := rfl
theorem test_bsrd_8 : after (fun t => t.reg .x1) (run 0x7365 (at_ 0x0000 0x0 0x1234 0x0018 none_)) =
    some 0x0012 := rfl
theorem test_bsrsd_15 : after (fun t => t.reg .x1) (run 0x73A5 (at_ 0x0000 0x0 0x8001 0xFFFF none_)) =
    some 0xFFFF := rfl
theorem test_brrd_15 : after (fun t => t.reg .x1) (run 0x73E5 (at_ 0x0000 0x0 0x8001 0xFFFF none_)) =
    some 0x0003 := rfl
theorem test_lli_sign_extends : after (fun t => t.reg .x1) (run 0x8380 (at_ 0x0000 0x0 0x0 0x0 none_)) =
    some 0xFF80 := rfl
theorem test_lui : after (fun t => t.reg .x1) (run 0x8B12 (at_ 0x0000 0xFFFF 0x0 0x0 none_)) =
    some 0x1200 := rfl

/-! Jumps and the branch (L2.5). -/

theorem test_jmp_top : after (fun t => (t.reg .rp, t.addr, t.flags)) (run 0x97FF (at_ 0x0004 0x0 0x0 0x0 carry)) =
    some (0x0000, 0xFFE0, carry) := rfl
theorem test_jmpl_links_past_the_end : after (fun t => (t.reg .rp, t.addr, t.flags)) (run 0x9810 (at_ 0xFFFE 0x0 0x0 0x0 none_)) =
    some (0x0000, 0x0200, none_) := rfl
theorem test_jmpr_back_over_zero : after (fun t => (t.reg .rp, t.addr, t.flags)) (run 0xA7FE (at_ 0x0000 0x0 0x0 0x0 none_)) =
    some (0x0000, 0xFFFE, none_) := rfl
theorem test_jmprl_back : after (fun t => (t.reg .rp, t.addr, t.flags)) (run 0xAFF8 (at_ 0x0020 0x0 0x0 0x0 none_)) =
    some (0x0022, 0x0012, none_) := rfl
theorem test_jmpd_drops_bit_0 : after (fun t => (t.reg .rp, t.addr, t.flags)) (run 0xB300 (at_ 0x0010 0x0123 0x0 0x0 none_)) =
    some (0x0000, 0x0122, none_) := rfl
theorem test_jmpdl : after (fun t => (t.reg .rp, t.addr, t.flags)) (run 0xBB00 (at_ 0x0040 0x0300 0x0 0x0 none_)) =
    some (0x0042, 0x0300, none_) := rfl
theorem test_jmpdl_zr : after (fun t => (t.reg .rp, t.addr, t.flags)) (run 0xB800 (at_ 0x0040 0x0 0x0 0x0 none_)) =
    some (0x0042, 0x0000, none_) := rfl
theorem test_brh_nz_taken : after (fun t => (t.reg .rp, t.addr, t.flags)) (run 0xC6FD (at_ 0x0100 0x0 0x0 0x0 none_)) =
    some (0x0000, 0x00FC, none_) := rfl
theorem test_brh_nc_not_taken : after (fun t => (t.reg .rp, t.addr, t.flags)) (run 0xC47F (at_ 0x0100 0x0 0x0 0x0 carry)) =
    some (0x0000, 0x0102, carry) := rfl
theorem test_prfi : after (fun t => (t.reg .rp, t.addr, t.flags)) (run 0xCFFF (at_ 0x0010 0x0 0x0 0x0 carry)) =
    some (0x0000, 0x0012, carry) := rfl
theorem test_jmpdl_rp_reads_first :
    after (fun t => (t.reg .rp, t.addr)) (run 0xB900 ((at_ 0x0040 0 0 0 none_).setReg .rp 0x0300)) =
    some (0x0042, 0x0300) := rfl

/-! Memory (L2.6): the register after its load has resolved. -/

theorem test_mld_sign_extends : after (fun t => (t.pending .x1, t.reg .x1, (t.resolve .x1).reg .x1))
    (run 0xD31A ((at_ 0 0x0 0x0 0 none_).writeByte 0x0103 0x85)) = some (true, 0x0000, 0xFF85) := rfl
theorem test_mld_wraps : after (fun t => (t.resolve .x1).reg .x1)
    (run 0xD3FA (((at_ 0 0x0 0x0 0 none_).setReg .sp 0xFFF0).writeByte 0x000F 0x11)) = some 0x0011 := rfl
theorem test_mldw_little_endian : after (fun t => (t.resolve .x1).reg .x1)
    (run 0xDB1A (((at_ 0 0x0 0x0 0 none_).writeByte 0x0106 0x34).writeByte 0x0107 0x12)) = some 0x1234 := rfl
theorem test_mldw_odd : why (run 0xDB02 ((at_ 0 0 0 0 none_).setReg .sp 0x0101)) = some .misalignedWord := rfl
theorem test_mst_low_byte : after (fun t => t.readByte 0x0103)
    (run 0xE31A (at_ 0 0xABCD 0x0 0 none_)) = some 0xCD := rfl
theorem test_mstw_little_endian : after (fun t => (t.readByte 0x0106, t.readByte 0x0107))
    (run 0xEB1A (at_ 0 0xABCD 0x0 0 none_)) = some (0xCD, 0xAB) := rfl
theorem test_xch_swaps : after (fun t => ((t.resolve .x1).reg .x1, t.readByte 0x0202))
    (run 0xF314 ((at_ 0 0x1234 0x0200 0 none_).writeByte 0x0202 0x80)) = some (0xFF80, 0x34) := rfl
theorem test_xchw_same_register : after (fun t => ((t.resolve .x1).reg .x1, t.readWord 0x0200))
    (run 0xFB03 (((at_ 0 0x0200 0x0 0 none_).writeByte 0x0200 0x78).writeByte 0x0201 0x56)) = some (0x5678, 0x0200) := rfl
theorem test_mst_into_the_image :
    why (run 0xE31A { at_ 0 0 0 0 none_ with image := [(0x0103, 1)] }) = some .storeToText := rfl

theorem test_image_wraps :
    why (run 0xE302 (((at_ 0 0 0 0 none_).loadImage 0xFFFE [1, 2, 3, 4]).setReg .sp 0x0001)) = some .storeToText ∧
    after (fun t => t.readByte 0x0000) (run 0xE302 (((at_ 0 0 0 0 none_).loadImage 0xFFFE [1, 2, 3, 4]).setReg .sp 0x0002)) =
      some 0x03 := ⟨rfl, rfl⟩

/-! CSR access and control encodings (L2.7), A = 0x0020 with c = 1, s = 0, z = 1. -/

def ctl : State := at_ 0x0020 0x0005 0x0001 0x0002 ⟨true, false, true⟩
def bound (name : Csr) (s : State) : State := { s with platform := { Platform.absent with csrMap := [(0, name)] } }

theorem test_bkpt : stopped (run 0x0000 ctl) = some (.trap .breakpoint 0x0020) := rfl
theorem test_sysc : stopped (run 0xB007 ctl) = some (.trap (.systemCall 7) 0x0020) := rfl
theorem test_nop : after (fun t => (t.addr, t.flags)) (run 0x0800 ctl) = some (0x0022, ⟨true, false, true⟩) := rfl
theorem test_fence : after (fun t => (t.addr, t.reg .rp)) (run 0xB801 ctl) = some (0x0022, 0x0000) := rfl
theorem test_ftlb : after (fun t => (t.addr, t.flushPending)) (run 0xB802 ctl) = some (0x0022, true) := rfl
theorem test_rfi_without_return : why (run 0xB804 ctl) = some .noTrapReturn := rfl
theorem test_wfi_sleeps : stopped (run 0xB808 ctl) = some (.sleeping 0x0020) := rfl
theorem test_scf : after (fun t => (t.addr, t.flags)) (run 0xB810 ctl) = some (0x0022, ⟨true, false, true⟩) := rfl
theorem test_rscf : after (fun t => (t.addr, t.flags)) (run 0xB820 ctl) = some (0x0022, ⟨false, false, true⟩) := rfl
theorem test_csrr_unbound : why (run 0x1B00 ctl) = some .unboundCsr := rfl
theorem test_csrr_ip : after (fun t => t.reg .x1) (run 0x1B00 (bound .ip ctl)) = some 0x0022 := rfl
theorem test_csrw_pen : after (fun t => t.pen) (run 0x1840 (bound .pen { ctl with pen := true })) = some false := rfl
theorem test_csrw_fl : after (fun t => t.flags) (run 0x1B40 (bound .fl ctl)) = some ⟨true, false, true⟩ := rfl

/-! Pending registers (L2.9). -/

/-- x2 waits for 0x1234. -/
def waiting : State := (at_ 0 0x0200 0 0 none_).startLoad .x2 0x1234

theorem test_read_of_pending_holds : run 0x0520 waiting = .next waiting := rfl
theorem test_write_of_pending_faults : stopped (run 0x8400 waiting) = some (.trap (.pendingWrite .x2) 0x0000) := rfl
theorem test_szr_without_write_does_not_fault :
    after (fun t => (t.pending .x2, t.addr)) (run 0x241B waiting) = some (true, 0x0002) := rfl
theorem test_read_after_resolve : after (fun t => t.reg .x3) (run 0x0520 (waiting.resolve .x2)) = some 0x1234 := rfl

/-! ## Traps of a platform that has a TRAP_ENTRY and a TRAP_RETURN (R289 to R292) -/

/-- rp is saved where sp points and sp moves; the info goes into t1; interrupts are masked. rfi undoes that. -/
def trapPlatform : Platform :=
  let q : Word → TrapSequence := fun handler =>
    { rpSave := .combine .minus (.reg .sp) (.const 2), handler := .const handler, rpAfter := none, savesFlags := true,
      masks := true, waits := .needed, skips := true,
      writes := [.reg .t1 .info, .reg .sp (.combine .minus (.reg .sp) (.const 2)),
                 .memory (.combine .minus (.reg .sp) (.const 4)) .ira] }
  { Platform.absent with
      trapEntry := some ⟨q 0x1000, q 0x1002, q 0x1004, q 0x1006⟩,
      trapReturn := some { rpReload := some (.reg .sp), reloadPends := false, restoresFlags := true, unmasks := true,
                           writes := [.reg .sp (.combine .plus (.reg .sp) (.const 2)),
                                      .ira (.word (.combine .minus (.reg .sp) (.const 2)))] },
      interruptSource := true, resetIp := some 0x0008 }
def onTrapPlatform (s : State) : State := { s.setReg .rp 0x4321 with platform := trapPlatform }

theorem test_sysc_enters :
    after (fun t => (t.addr, t.ira, t.reg .t1, t.reg .sp, t.readWord 0x00FE, t.masked)) (run 0xB007 (onTrapPlatform ctl)) =
    some (0x1004, 0x0022, 0x0007, 0x00FE, 0x4321, true) := rfl
theorem test_entry_leaves_loads_in_flight :
    after (fun t => (t.addr, t.pending .x2, t.reg .t1)) (run 0x8400 (onTrapPlatform waiting)) = some (0x1000, true, 0x0004) := rfl
theorem test_entry_waits_for_rp :
    after (fun t => (t.addr, t.entering, t.pending .rp)) (run 0x0000 ((onTrapPlatform ctl).startLoad .rp 0x1111)) =
    some (0x0020, some .breakpoint, true) := rfl
/-- An entry that waits for nothing leaves a pending rp pending, and the load arrives later over what the entry wrote
(R291). -/
def hastyPlatform : Platform :=
  let q : TrapSequence :=
    { rpSave := .const 0x0300, handler := .const 0x1000, rpAfter := some (.const 0x7777), savesFlags := false,
      masks := false, waits := .nothing, skips := true, writes := [] }
  { Platform.absent with trapEntry := some ⟨q, q, q, q⟩ }

theorem test_entry_leaves_rp_pending :
    after (fun t => (t.addr, t.pending .rp, t.reg .rp, (t.resolve .rp).reg .rp))
      (run 0x0000 { ctl.startLoad .rp 0x1111 with platform := hastyPlatform }) =
    some (0x1000, true, 0x7777, 0x1111) := rfl
theorem test_entry_goes_on :
    after (fun t => (t.addr, t.entering, t.readWord 0x00FE))
      (step { onTrapPlatform ctl with entering := some .breakpoint, inputs := [.take], pen := true }) =
    some (0x1002, none, 0x4321) := rfl
theorem test_masked_interrupt_is_not_taken :
    after (fun t => t.addr)
      (step { (onTrapPlatform ctl).withFetchWord 16 0x0800 with masked := true, pen := true, inputs := [.take] }) =
    some 0x0022 := rfl
theorem test_rfi_returns :
    after (fun t => (t.addr, t.reg .rp, t.reg .sp, t.masked, t.ira))
      (run 0xB804 { ((onTrapPlatform ctl).writeWord 0x0100 0x8765).writeWord 0x00FE 0x0456 with
        ira := 0x0234, masked := true }) =
    some (0x0234, 0x8765, 0x0102, false, 0x0456) := rfl
def returns : TrapReturn := ⟨none, false, false, false, [.pen (.pending .x2), .reg .t1 .flushWaits]⟩

theorem test_rfi_restores_a_computed_pen :
    after (fun t => (t.pen, t.reg .t1))
      (run 0xB804 { waiting with flushPending := true, platform := { Platform.absent with trapReturn := some returns } }) =
    some (true, 1) := rfl
theorem test_rfi_leaves_rp_pending :
    after (fun t => (t.addr, t.pending .rp, t.reg .rp, (t.resolve .rp).reg .rp))
      (run 0xB804 { (ctl.setReg .rp 0x4321).writeWord 0x0100 0x8765 with
        ira := 0x0234, platform := { Platform.absent with trapReturn := some ⟨some (.reg .sp), true, false, false, []⟩ } }) =
    some (0x0234, true, 0x4321, 0x8765) := rfl
theorem test_reset_ip : (State.resetOf Params.spec trapPlatform 0).addr = 0x0010 := rfl

/-! ## Parameters that are not at the spec's choice (R7) -/

/-- A state with other parameters. -/
def withParams (p : Params) (s : State) : State := { s with params := p }

theorem test_big_endian_fetch :
    after (fun t => t.reg .x1)
      (step ((withParams { Params.spec with insnByteOrder := .big, patternMsbFirst := false } State.reset).withFetchWord 16
        0x8380)) = some 0xFF80 := rfl
theorem test_split_word_at_odd_address :
    after (fun t => (t.readByte 0x0101, t.readByte 0x0102))
      (run 0xEB02 ((withParams { Params.spec with misalignedWord := .split } (at_ 0 0xABCD 0 0 none_)).setReg .sp 0x0101)) =
    some (0xCD, 0xAB) := rfl
theorem test_no_wrap_is_refused :
    why (run 0xD3FA ((withParams { Params.spec with addrWrap := false } (at_ 0 0 0 0 none_)).setReg .sp 0xFFF0)) =
    some .addressPastEnd := rfl
theorem test_inverted_borrow :
    after (fun t => t.flags.c) (run 0x03A5 (withParams { Params.spec with subCarryNotBorrow := false }
      (at_ 0 0 0x0003 0x0005 none_))) = some true := rfl

/-! ## The step and the fetch -/

theorem test_step_runs_the_placed_word :
    after (fun t => (t.reg .x1, t.addr)) (step (State.reset.withFetchWord 16 0x8380)) = some (0xFF80, 0x0002) := rfl
theorem test_step_rejects_a_placed_word :
    why (step (State.reset.withFetchWord 16 0xB803)) = some .reservedControlFlag := rfl
theorem test_step_resolves :
    after (fun t => (t.reg .x2, t.pending .x2, t.addr)) (step { waiting with inputs := [.resolve .x2] }) =
    some (0x1234, false, 0x0000) := rfl
theorem test_core_step : Sys2Proof.core.step = Sys2Proof.Machine.step := rfl

/-! ## Data directives (L1.2) -/

theorem test_u16 : (Directive.u16 4660).emit = some [some 0x34, some 0x12] := rfl
theorem test_i24 : (Directive.i24 (-8388608)).emit = some [some 0x00, some 0x00, some 0x80] := rfl
theorem test_i8_too_large : (Directive.i8 128).emit = none := rfl
theorem test_ascii :
    (Directive.ascii "Cstr".toList (some 0)).emit = some [some 0x43, some 0x73, some 0x74, some 0x72, some 0x00] := by
  decide
theorem test_reserve : (Directive.reserve 1 (some 3)).emit = some [none, none, none] := rfl


/-! ## A state that meets the hypotheses of each obligation that has some -/

/-- x3 waits for a load; every other register is ready. -/
def busy : State := (at_ 0x0100 0x0200 0x0003 0x0005 none_).startLoad .x3 0x1234
/-- rp waits for a load. -/
def linking : State := (at_ 0x0100 0x0200 0x0003 0x0005 none_).startLoad .rp 0x1234
/-- Text from 0x0201 to 0x0202, x1 even and x2 odd, and the addresses about it. -/
def texted (x1 x2 : Word) : State := { at_ 0x0100 x1 x2 0 none_ with image := [(0x0201, 2)] }
/-- rp is saved where sp points, fl is saved, interrupts are masked and the info goes into t1. -/
def sequence (handler : Word) (skips : Bool) : TrapSequence :=
  { rpSave := .reg .sp, handler := .const handler, rpAfter := none, savesFlags := true, masks := true, waits := .needed,
    skips := skips, writes := [.reg .t1 .info] }
def entry : TrapEntry :=
  ⟨sequence 0x1000 false, sequence 0x1001 true, sequence 0x1002 true, sequence 0x1003 false⟩
/-- The same, waiting for no load. -/
def hasty (handler : Word) (skips : Bool) : TrapSequence := { sequence handler skips with waits := .nothing }
def trapping (s : State) : State :=
  { s with platform := { Platform.absent with trapEntry := some entry, interruptSource := true }, pen := true,
           inputs := [.take] }
/-- A platform whose rfi reloads rp from the address, if one is given, restores fl, enables interrupts and moves sp. -/
def back (reload : Option TrapExpr) : TrapReturn :=
  { rpReload := reload, reloadPends := false, restoresFlags := true, unmasks := true, writes := [.reg .sp (.combine .plus (.reg .sp) (.const 2))] }
/-- The same, where the reload leaves rp pending. -/
def lazyBack : TrapReturn := { back (some (.reg .sp)) with reloadPends := true }
def lazily (s : State) : State := { s with platform := { Platform.absent with trapReturn := some lazyBack } }
def returning (reload : Option TrapExpr) (s : State) : State :=
  { s with platform := { Platform.absent with trapReturn := some (back reload) } }
/-- Each case of the rule of an entry: a register it needs is pending; rp would be saved at an odd address; in the
program image; and nothing is in the way. -/
def EntryCases (q : TrapSequence) (cause : Cause) (waits odd text done : State) : Prop :=
  (∃ r ∈ q.needs, waits.pending r = true) ∧
  (∃ save handler rpAfter u, EntryComputes q cause save handler rpAfter u odd ∧ oddAddress save = true) ∧
  (∃ save handler rpAfter u, EntryComputes q cause save handler rpAfter u text ∧ oddAddress save = false ∧
    (text.inImage save || text.inImage (save + 1)) = true) ∧
  (∃ save handler rpAfter u, EntryComputes q cause save handler rpAfter u done ∧ oddAddress save = false ∧
    (done.inImage save || done.inImage (save + 1)) = false)


theorem witness_AddAndAddcSumWithCarryOut :
    busy.params = Params.spec ∧
    (Ready [.x1, .x2] busy ∧ busy.pending .x3 = true) ∧ Ready [.x1, .x2] busy ∧ busy.pending .t1 = false := by unfold Ready; decide

theorem witness_SubAndSubbLeaveCarryForNoBorrow :
    busy.params = Params.spec ∧
    (Ready [.x1, .x2] busy ∧ busy.pending .x3 = true) ∧ Ready [.x1, .x2] busy ∧ busy.pending .t1 = false := by unfold Ready; decide

theorem witness_SltAndSltuCompareExactly :
    busy.params = Params.spec ∧
    (Ready [.x1, .x2] busy ∧ busy.pending .x3 = true) ∧ Ready [.x1, .x2] busy ∧ busy.pending .t1 = false := by unfold Ready; decide

theorem witness_LogicRegisterFormsCombineBits :
    (Ready [.x1, .x2] busy ∧ busy.pending .x3 = true) ∧ Ready [.x1, .x2] busy ∧ busy.pending .t1 = false := by unfold Ready; decide

theorem witness_RegisterShiftsUseTheLowFourBits :
    busy.params = Params.spec ∧
    (Ready [.x1, .x2] busy ∧ busy.pending .x3 = true) ∧ Ready [.x1, .x2] busy ∧ busy.pending .t1 = false := by unfold Ready; decide

theorem witness_AddiAndCmpiUseTheSignExtendedImmediate :
    busy.params = Params.spec ∧
    Ready [.x1] busy := by unfold Ready; decide

theorem witness_LogicImmediateFormsExtendTheirImmediate :
    Ready [.x1] busy := by unfold Ready; decide

theorem witness_BitiTestsTheLowByte :
    Ready [.x1] busy ∧ (∀ j, j < 8 → ((busy.reg .x1).getLsbD j && (0xFF : BitVec 8).getLsbD j) = false) ∧
      Ready [.x2] busy ∧ ¬ ∀ j, j < 8 → ((busy.reg .x2).getLsbD j && (0xFF : BitVec 8).getLsbD j) = false := by unfold Ready; decide

theorem witness_ImmediateShiftsMoveBits :
    (Ready [.x1] busy ∧ busy.pending .x3 = true) ∧ Ready [.x1] busy ∧ busy.pending .t1 = false := by unfold Ready; decide

theorem witness_LoadImmediateFormsFillTheRegister :
    (Ready [] busy ∧ busy.pending .x3 = true) ∧ Ready [] busy ∧ busy.pending .t1 = false := by unfold Ready; decide

theorem witness_TwoWordAdditionAndSubtractionAreExact :
    (at_ 0 0xFFFF 1 2 none_).params = Params.spec ∧
    (at_ 0 0xFFFF 1 2 none_).anyPending = false ∧ Reg.t1 ≠ .zr ∧ Reg.t2 ≠ .zr ∧ Reg.t2 ≠ .t1 ∧ Reg.t1 ≠ .x1 ∧ Reg.t1 ≠ .x2 := by decide

theorem witness_SzrWritesOnlyWhenTheTestedRegisterIsZero :
    busy.params = Params.spec ∧
    (busy.reg .sp ≠ 0 ∧ Ready [.x1, .sp] busy) ∧
    (busy.reg .rp = 0 ∧ Ready [.x1, .rp] busy ∧ busy.pending .x3 = true) ∧
    (busy.reg .rp = 0 ∧ Ready [.x1, .rp] busy ∧ busy.pending .t1 = false) := by unfold Ready; decide

theorem witness_UnlinkedJumpsReachTheirTargets :
    busy.params = Params.spec := rfl

theorem witness_LinkingJumpsLeaveTheReturnAddress :
    busy.params = Params.spec ∧
    linking.params = Params.spec ∧ linking.pending .rp = true ∧ busy.pending .rp = false := by decide

theorem witness_RegisterJumpsDropBitZero :
    busy.params = Params.spec ∧
    linking.params = Params.spec ∧ (Ready [.x1] linking ∧ linking.pending .rp = true) ∧ Ready [.rp] busy ∧ busy.pending .rp = false := by unfold Ready; decide

theorem witness_BranchGoesByItsCondition :
    busy.params = Params.spec ∧
    (let f : Flags := ⟨true, true, true⟩; f.c = true ∧ f.s = true ∧ f.z = true ∧ (!f.c) = false ∧ (!f.s) = false ∧ (!f.z) = false) ∧
    (let f : Flags := ⟨false, false, false⟩; f.c = false ∧ f.s = false ∧ f.z = false ∧ (!f.c) = true ∧ (!f.s) = true ∧ (!f.z) = true) := by decide

theorem witness_HintsAndNopOnlyAdvance :
    Ready [.x1] busy := by unfold Ready; decide

theorem witness_CallThenReturnResumesAfterTheCall :
    busy.params = Params.spec ∧
    busy.pending .rp = false := by decide

theorem witness_EffectiveAddressesWrap :
    busy.params = Params.spec ∧
    oddAddress (wordAddress 0xFFFE 0) = false ∧ oddAddress (wordAddress 0xFFC2 31) = false := by decide

theorem witness_LoadsFixTheValueAndLeaveTheRegisterPending :
    AtSpecChoice busy ∧
    Ready [.x1] busy ∧ (Reg.zr = .zr) ∧ busy.pending .x3 = true ∧ (Reg.t1 ≠ .zr ∧ busy.pending .t1 = false) ∧
    oddAddress (wordAddress (busy.reg .x1) 31) = false ∧
    Ready [.x2] busy ∧ oddAddress (wordAddress (busy.reg .x2) 0) = true := by unfold Ready AtSpecChoice; decide

theorem witness_StoresWriteTheirBytesAndNothingElse :
    AtSpecChoice (texted 0x0200 0x0203) ∧ AtSpecChoice (texted 0x01FE 0x0204) ∧
    (Ready [.x1, .x2] (texted 0x0200 0x0203) ∧ (texted 0x0200 0x0203).inImage (byteAddress 0x0200 0) = false ∧
      (texted 0x0200 0x0203).inImage (byteAddress 0x0203 0) = false ∧ oddAddress (wordAddress 0x0203 0) = true) ∧
    (Ready [.x1, .x2] (texted 0x01FE 0x0204) ∧ oddAddress (wordAddress 0x01FE 0) = false ∧
      (texted 0x01FE 0x0204).inImage (wordAddress 0x01FE 0) = false ∧
      (texted 0x01FE 0x0204).inImage (wordAddress 0x01FE 0 + 1) = false ∧ oddAddress (wordAddress 0x0204 0) = false ∧
      (texted 0x01FE 0x0204).inImage (wordAddress 0x0204 0) = false ∧
      (texted 0x01FE 0x0204).inImage (wordAddress 0x0204 0 + 1) = false) := by unfold Ready AtSpecChoice; decide

theorem witness_ExchangesSwapRegisterAndMemory :
    AtSpecChoice (texted 0x0200 0x0203) ∧ AtSpecChoice (texted 0x01FE 0x0204) ∧
    (Ready [.x1, .x2] (texted 0x0200 0x0203) ∧ (texted 0x0200 0x0203).inImage (byteAddress 0x0200 0) = false ∧
      (texted 0x0200 0x0203).inImage (byteAddress 0x0203 0) = false ∧ oddAddress (wordAddress 0x0203 0) = true) ∧
    (Ready [.x1, .x2] (texted 0x01FE 0x0204) ∧ oddAddress (wordAddress 0x01FE 0) = false ∧
      (texted 0x01FE 0x0204).inImage (wordAddress 0x01FE 0) = false ∧
      (texted 0x01FE 0x0204).inImage (wordAddress 0x01FE 0 + 1) = false ∧ oddAddress (wordAddress 0x0204 0) = false ∧
      (texted 0x01FE 0x0204).inImage (wordAddress 0x0204 0) = false ∧
      (texted 0x01FE 0x0204).inImage (wordAddress 0x0204 0 + 1) = false) := by unfold Ready AtSpecChoice; decide

theorem witness_StoresIntoTheProgramImageAreRefused :
    AtSpecChoice (texted 0x0201 0x0202) ∧ AtSpecChoice (texted 0x0200 0x0202) ∧
    (Ready [.x1, .x2] (texted 0x0201 0x0202) ∧ (texted 0x0201 0x0202).inImage (byteAddress 0x0201 0) = true ∧
      (texted 0x0201 0x0202).inImage (byteAddress 0x0202 0) = true) ∧
    (Ready [.x1, .x2] (texted 0x0200 0x0202) ∧ oddAddress (wordAddress 0x0200 0) = false ∧
      ((texted 0x0200 0x0202).inImage (wordAddress 0x0200 0) ||
        (texted 0x0200 0x0202).inImage (wordAddress 0x0200 0 + 1)) = true ∧
      oddAddress (wordAddress 0x0202 0) = false ∧
      ((texted 0x0200 0x0202).inImage (wordAddress 0x0202 0) ||
        (texted 0x0200 0x0202).inImage (wordAddress 0x0202 0 + 1)) = true) := by unfold Ready AtSpecChoice; decide

theorem witness_StoredWordIsLoadedBack :
    AtSpecChoice busy ∧
    Ready [.x1, .t1, .sp] busy ∧ Reg.t1 ≠ .zr ∧ oddAddress (wordAddress (busy.reg .sp) 31) = false ∧
    busy.inImage (wordAddress (busy.reg .sp) 31) = false ∧ busy.inImage (wordAddress (busy.reg .sp) 31 + 1) = false := by unfold Ready AtSpecChoice; decide

theorem witness_ResolveDeliversTheLoadedValue :
    busy.awaited .x3 = some 0x1234 ∧
    ({ busy with inputs := [.resolve .x3] } : State).inputs.head? = some (.resolve .x3) := ⟨rfl, rfl⟩

theorem witness_PendingSourceHoldsTheInstruction :
    (Reg.x3 ∈ sources (.add .x1 .x2 .x3) ∧ busy.pending .x3 = true) ∧
    (Reg.x3 ∈ sources (.csrw .x3 0) ∧ (bound .fl busy).pending .x3 = true ∧
      csrNamed (bound .fl busy).platform.csrMap 0 ≠ none) := by decide

theorem witness_PendingDestinationRaisesTheFault :
    (destination (.lli .x3 0) = some .x3 ∧ Ready (sources (.lli .x3 0)) busy ∧ busy.pending .x3 = true ∧
      busy.platform.trapEntry = none) ∧
    (destination (.szr .x3 .x1 .rp) = some .x3 ∧ busy.params.szrRoles = .firstIsValue ∧ Ready (sources (.szr .x3 .x1 .rp)) busy ∧ busy.reg .rp = 0) ∧
    (destination (.csrr .x3 0) = some .x3 ∧ Ready (sources (.csrr .x3 0)) (bound .ip busy) ∧
      (bound .ip busy).pending .x3 = true ∧ csrNamed (bound .ip busy).platform.csrMap 0 ≠ none) := by unfold Ready; decide

theorem witness_TrapsEndTheRunWithoutATrapEntry :
    busy.platform.trapEntry = none := rfl

theorem witness_BreakpointAndSystemCallEnterTheTrap :
    (∀ s ∈ [linking, busy.setReg .sp 0x0101, (texted 0 0).setReg .sp 0x0202, busy],
      AtSpecChoice (trapping s) ∧ (trapping s).platform.trapEntry = some entry) ∧
    EntryCases (sequence 0x1001 true) .breakpoint (trapping linking)
      (trapping (busy.setReg .sp 0x0101)) (trapping ((texted 0 0).setReg .sp 0x0202)) (trapping busy) ∧
    EntryCases (sequence 0x1002 true) (.systemCall 7) (trapping linking)
      (trapping (busy.setReg .sp 0x0101)) (trapping ((texted 0 0).setReg .sp 0x0202)) (trapping busy) := ⟨by unfold AtSpecChoice; decide,
    ⟨by decide, ⟨_, _, _, _, ⟨by unfold Ready; decide, rfl, rfl, rfl, rfl⟩, by decide⟩,
      ⟨_, _, _, _, ⟨by unfold Ready; decide, rfl, rfl, rfl, rfl⟩, by decide, by decide⟩,
      ⟨_, _, _, _, ⟨by unfold Ready; decide, rfl, rfl, rfl, rfl⟩, by decide, by decide⟩⟩,
    ⟨by decide, ⟨_, _, _, _, ⟨by unfold Ready; decide, rfl, rfl, rfl, rfl⟩, by decide⟩,
      ⟨_, _, _, _, ⟨by unfold Ready; decide, rfl, rfl, rfl, rfl⟩, by decide, by decide⟩,
      ⟨_, _, _, _, ⟨by unfold Ready; decide, rfl, rfl, rfl, rfl⟩, by decide, by decide⟩⟩⟩

theorem witness_PendingWriteFaultEntersTheTrap :
    (∀ s ∈ [busy.startLoad .rp 0, busy.setReg .sp 0x0101, ((texted 0 0).startLoad .x3 0).setReg .sp 0x0200, busy],
      AtSpecChoice (trapping s) ∧ (trapping s).platform.trapEntry = some entry ∧ destination (.lli .x3 0) = some .x3 ∧
      Ready (sources (.lli .x3 0)) (trapping s) ∧ (trapping s).pending .x3 = true) ∧
    (destination (.szr .x3 .x1 .rp) = some .x3 ∧ Ready (sources (.szr .x3 .x1 .rp)) (trapping busy) ∧
      (trapping busy).reg .rp = 0) ∧
    EntryCases (sequence 0x1000 false) (.pendingWrite .x3) (trapping (busy.startLoad .rp 0))
      (trapping (busy.setReg .sp 0x0101)) (trapping (((texted 0 0).startLoad .x3 0).setReg .sp 0x0200)) (trapping busy) ∧
    (destination (.jmpl 0) = some .rp ∧ Ready (sources (.jmpl 0)) (trapping linking) ∧
      (trapping linking).pending .rp = true ∧ ∃ save handler rpAfter u,
        EntryComputes (hasty 0x1000 false) (.pendingWrite .rp) save handler rpAfter u (trapping linking) ∧
        oddAddress save = false ∧
        ((trapping linking).inImage save || (trapping linking).inImage (save + 1)) = false) := ⟨by unfold AtSpecChoice Ready; decide, by unfold Ready; decide,
    ⟨by decide, ⟨_, _, _, _, ⟨by unfold Ready; decide, rfl, rfl, rfl, rfl⟩, by decide⟩,
      ⟨_, _, _, _, ⟨by unfold Ready; decide, rfl, rfl, rfl, rfl⟩, by decide, by decide⟩,
      ⟨_, _, _, _, ⟨by unfold Ready; decide, rfl, rfl, rfl, rfl⟩, by decide, by decide⟩⟩,
    rfl, by unfold Ready; decide, rfl, _, _, _, _, ⟨by unfold Ready; decide, rfl, rfl, rfl, rfl⟩, by decide, by decide⟩

theorem witness_InterruptIsTakenBetweenInstructions :
    (∀ s ∈ [linking, busy.setReg .sp 0x0101, (texted 0 0).setReg .sp 0x0202, busy],
      AtSpecChoice (trapping s) ∧ (trapping s).platform.trapEntry = some entry ∧
      (trapping s).platform.interruptSource = true ∧ (trapping s).pen = true ∧
      (trapping s).inputs.head? = some .take ∧ (trapping s).masked = false ∧ (trapping s).entering = none) ∧
    EntryCases (sequence 0x1003 false) .interrupt (trapping linking).tick
      (trapping (busy.setReg .sp 0x0101)).tick (trapping ((texted 0 0).setReg .sp 0x0202)).tick (trapping busy).tick ∧
    ({ trapping busy with masked := true } : State).masked = true ∧
    ({ trapping busy with entering := some .breakpoint } : State).entering ≠ none := ⟨by unfold AtSpecChoice; decide,
    ⟨by decide, ⟨_, _, _, _, ⟨by unfold Ready; decide, rfl, rfl, rfl, rfl⟩, by decide⟩,
      ⟨_, _, _, _, ⟨by unfold Ready; decide, rfl, rfl, rfl, rfl⟩, by decide, by decide⟩,
      ⟨_, _, _, _, ⟨by unfold Ready; decide, rfl, rfl, rfl, rfl⟩, by decide, by decide⟩⟩, rfl, by decide⟩

theorem witness_RfiReturnsToTheInterruptedProgram :
    busy.platform.trapReturn = none ∧ AtSpecChoice busy ∧
    (∀ s ∈ [linking, busy, busy.setReg .sp 0x0101, busy.startLoad .sp 0], AtSpecChoice (returning (some (.reg .sp)) s) ∧
      (returning (some (.reg .sp)) s).platform.trapReturn = some (back (some (.reg .sp)))) ∧
    (Reg.sp ∈ (back (some (.reg .sp))).sources ∧ (returning (some (.reg .sp)) (busy.startLoad .sp 0)).pending .sp = true) ∧
    (Ready (back (some (.reg .sp))).sources (returning (some (.reg .sp)) linking) ∧
      Reg.rp ∈ (back (some (.reg .sp))).targets ∧ (returning (some (.reg .sp)) linking).pending .rp = true) ∧
    (∀ s ∈ [busy, busy.setReg .sp 0x0101], Ready (back (some (.reg .sp))).sources (returning (some (.reg .sp)) s) ∧
      Ready (back (some (.reg .sp))).targets (returning (some (.reg .sp)) s)) ∧
    ((∃ u, let s := returning (some (.reg .sp)) busy
      applyWrites 0 s (back (some (.reg .sp))).writes { s with flags := s.savedFlags } = .ok u) ∧
      (TrapExpr.reg .sp).value 0 (returning (some (.reg .sp)) busy) = .ok 0x0100 ∧ oddAddress 0x0100 = false) ∧
    ((∃ u, let s := returning (some (.reg .sp)) (busy.setReg .sp 0x0101)
      applyWrites 0 s (back (some (.reg .sp))).writes { s with flags := s.savedFlags } = .ok u) ∧
      (TrapExpr.reg .sp).value 0 (returning (some (.reg .sp)) (busy.setReg .sp 0x0101)) = .ok 0x0101 ∧
      oddAddress 0x0101 = true) ∧
    (AtSpecChoice (returning none busy) ∧ (returning none busy).platform.trapReturn = some (back none) ∧
      Ready (back none).sources (returning none busy) ∧ Ready (back none).targets (returning none busy) ∧
      ∃ u, let s := returning none busy
        applyWrites 0 s (back none).writes { s with flags := s.savedFlags } = .ok u) ∧
    (AtSpecChoice (lazily busy) ∧ (lazily busy).platform.trapReturn = some lazyBack ∧ lazyBack.reloadPends = true ∧
      Ready lazyBack.sources (lazily busy) ∧ Ready lazyBack.targets (lazily busy) ∧
      lazyBack.rpReload = some (.reg .sp) ∧ (TrapExpr.reg .sp).value 0 (lazily busy) = .ok 0x0100 ∧
      oddAddress 0x0100 = false ∧
      ∃ u, applyWrites 0 (lazily busy) lazyBack.writes { lazily busy with flags := (lazily busy).savedFlags } = .ok u) := ⟨rfl, ⟨rfl, rfl⟩, by unfold AtSpecChoice; decide, by decide, by unfold Ready; decide, by unfold Ready; decide,
    ⟨⟨_, rfl⟩, rfl, rfl⟩, ⟨⟨_, rfl⟩, rfl, rfl⟩, ⟨⟨rfl, rfl⟩, rfl, by unfold Ready; decide, by unfold Ready; decide, _, rfl⟩,
    ⟨rfl, rfl⟩, rfl, rfl, by unfold Ready; decide, by unfold Ready; decide, rfl, rfl, rfl, _, rfl⟩

theorem witness_WfiWaitsForAPendingInterrupt :
    (trapping busy).pen = true ∧
    (({ trapping busy with pen := false } : State).pen = false ∧ (trapping busy).platform.interruptSource = true) ∧
    (busy.pen = false ∧ busy.platform.interruptSource = false) := by decide

theorem witness_FenceCompletesOnlyWithNothingPending :
    busy.pending .x3 = true ∧ ∀ r, (busy.resolve .x3).pending r = false := ⟨rfl, fun r => by cases r <;> rfl⟩

theorem witness_TlbFlushWaitsForTheNextTakenJump :
    (let s : State := { busy with flushPending := true }
     s.flushPending = true ∧ BitVec.ofNat 16 ((0x7FF : BitVec 11).toNat * 32) ≠ s.addr + 2) ∧
    holds .c busy.flags = false := by decide

theorem witness_CsrrReadsTheBoundRegister :
    busy.params = Params.spec ∧
    csrNamed busy.platform.csrMap 0 = none ∧
    (csrNamed (bound .ip busy).platform.csrMap 0 = some .ip ∧ (bound .ip busy).pending .x3 = true ∧
      (bound .ip busy).pending .t1 = false) ∧
    csrNamed (bound .ira busy).platform.csrMap 0 = some .ira ∧ csrNamed (bound .fl busy).platform.csrMap 0 = some .fl ∧
    csrNamed (bound .pen busy).platform.csrMap 0 ≠ none := by decide

theorem witness_CsrwWritesTheDescribedRegisters :
    busy.params = Params.spec ∧
    csrNamed busy.platform.csrMap 63 = none ∧ Ready [.x1] (bound .fl busy) ∧ Ready [.zr] (bound .pen busy) ∧
    csrNamed (bound .fl busy).platform.csrMap 0 = some .fl ∧
    (csrNamed (bound .pen busy).platform.csrMap 0 = some .pen ∧ (bound .pen busy).reg .zr = 0 ∧
      (bound .pen busy).reg .x1 ≠ 0) ∧
    csrNamed (bound .interruptInterface busy).platform.csrMap 0 = some .interruptInterface ∧
    (∀ name ∈ [Csr.ip, Csr.ira, Csr.readOnly, Csr.vmConfig], csrNamed (bound name busy).platform.csrMap 0 = some name) := by unfold Ready; decide

theorem witness_DecodeInvertsEncode :
    Instr.wf (.add .zr .zr .rp) = true ∧ Instr.wf (.mov .x1 .zr) = true := ⟨rfl, rfl⟩

theorem witness_EveryAcceptedWordIsEncodedBack :
    decode 0x0001 = .ok (.add .zr .zr .rp) ∧ decode 0xFFFF = .ok (.xchw .t2 .t2 31) := ⟨rfl, rfl⟩

theorem witness_StepRunsTheDecodedInstruction :
    (∀ s ∈ [State.reset.withFetchWord 16 0x0800, State.reset.withFetchWord 16 0xB803,
      { trapping busy with inputs := [.run] }], AtSpecChoice s ∧ s.entering = none) ∧
    (State.reset.withFetchWord 16 0xB803).quiet = true ∧
    ({ trapping busy with inputs := [.run] } : State).inputs.head? = some .run ∧
    (let s := State.reset.withFetchWord 16 0x0800
     decodeBytes [s.readByte s.addr, s.readByte (s.addr + 1)] = .ok (.nop, [])) ∧
    (let s := State.reset.withFetchWord 16 0xB803
     decodeBytes [s.readByte s.addr, s.readByte (s.addr + 1)] = .error .reservedControlFlag) := ⟨by unfold AtSpecChoice; decide, rfl, rfl, rfl, rfl⟩

theorem witness_EveryStepIsAnInstructionOrAPossibleEvent :
    (∀ r, State.reset.pending r = false) ∧ State.reset.platform.interruptSource = false := ⟨fun r => by cases r <;> rfl, rfl⟩

theorem witness_StepKeepsMemoryCanonical :
    ∃ t, Memory.wf (State.reset.withFetchWord 16 0x0800).mem = true ∧
    step (State.reset.withFetchWord 16 0x0800) = .next t := ⟨_, rfl, rfl⟩

theorem witness_StepNeverChangesTheProgramText :
    ∃ t, step { State.reset.withFetchWord 16 0x0800 with image := [(0, 2)] } = .next t ∧
    (let s : State := { State.reset.withFetchWord 16 0x0800 with image := [(0, 2)] }
     s.params.fetchCoherence = .refuse ∧ s.params.memUnified = true ∧ s.inImage 1 = true) := ⟨_, rfl, rfl, rfl, rfl⟩

theorem witness_OnlyTheDestinationRegisterChanges :
    ∃ t, exec (.add .t1 .x1 .x2) busy = .next t ∧ Instr.add .t1 .x1 .x2 ≠ .rfi ∧ busy.platform.trapEntry = none ∧
    destination (.add .t1 .x1 .x2) ≠ some .sp := ⟨_, rfl, by decide, rfl, by decide⟩

theorem witness_OnlyStoresChangeMemory :
    ∃ t, exec (.add .t1 .x1 .x2) busy = .next t ∧ storesToMemory (.add .t1 .x1 .x2) = false ∧
    Instr.add .t1 .x1 .x2 ≠ .rfi ∧ busy.platform.trapEntry = none := ⟨_, rfl, rfl, by decide, rfl⟩

theorem witness_ClassFnInstructionsLeaveTheFlags :
    ∃ t, leavesFlags (.csrw .zr 0) = true ∧ exec (.csrw .zr 0) (bound .pen busy) = .next t ∧
    csrNamed (bound .pen busy).platform.csrMap 0 ≠ some .fl ∧ (bound .pen busy).platform.trapEntry = none ∧
    EntryKeepsFlags entry := ⟨_, rfl, rfl, by decide, rfl, fun cause v => by cases cause <;> simp [TrapEntry.sequence, entry, sequence]⟩

theorem witness_InstructionsThatDoNotJumpAdvance :
    ∃ t, mayJump (.add .t1 .x1 .x2) = false ∧ busy.platform.trapEntry = none ∧ exec (.add .t1 .x1 .x2) busy = .next t := ⟨_, rfl, rfl, rfl⟩

theorem witness_ArithmeticPseudosComplete :
    busy.params = Params.spec ∧
    (Ready [.x1] busy ∧ busy.pending .x3 = true) ∧ Ready [.x1] busy ∧ busy.pending .t1 = false ∧
    Ready [.x1, .x2] busy ∧ Ready [.sp] busy := by unfold Ready; decide

theorem witness_ComparisonPseudosComplete :
    busy.params = Params.spec ∧
    (Ready [.x1] busy ∧ busy.pending .x3 = true) ∧ Ready [.x1] busy ∧ busy.pending .t1 = false := by unfold Ready; decide

theorem witness_MaskPseudosComplete :
    Ready [.x1] busy ∧ (Ready [] busy ∧ busy.pending .x3 = true) ∧ Ready [] busy ∧ busy.pending .t1 = false := by unfold Ready; decide

theorem witness_MemoryPseudosComplete :
    AtSpecChoice linking ∧ AtSpecChoice busy ∧ AtSpecChoice (texted 0x0200 0x0203) ∧
    AtSpecChoice (texted 0x01FE 0x0204) ∧
    linking.pending .rp = true ∧ busy.pending .rp = false ∧ Ready [.x1] (texted 0x0200 0x0203) ∧
    (texted 0x0200 0x0203).inImage (byteAddress 0x0200 0) = false ∧
    Ready [.x2] (texted 0x0200 0x0203) ∧ oddAddress (wordAddress 0x0203 0) = true ∧
    (Ready [.x1] (texted 0x01FE 0x0204) ∧ oddAddress (wordAddress 0x01FE 0) = false ∧
      (texted 0x01FE 0x0204).inImage (wordAddress 0x01FE 0) = false ∧
      (texted 0x01FE 0x0204).inImage (wordAddress 0x01FE 0 + 1) = false) := by unfold Ready AtSpecChoice; decide

theorem witness_DirectivesEmitLittleEndian :
    (255 < 2 ^ 8 ∧ 65535 < 2 ^ 16 ∧ 16777215 < 2 ^ 24 ∧ 4294967295 < 2 ^ 32 ∧
      2 ^ 8 ≤ 256 ∧ 2 ^ 16 ≤ 65536 ∧ 2 ^ 24 ≤ 16777216 ∧ 2 ^ 32 ≤ 4294967296) ∧
    ((-2 ^ 7 ≤ (-128 : Int) ∧ (-128 : Int) < 2 ^ 7) ∧ (-2 ^ 15 ≤ (32767 : Int) ∧ (32767 : Int) < 2 ^ 15) ∧
      (-2 ^ 23 ≤ (-8388608 : Int) ∧ (-8388608 : Int) < 2 ^ 23) ∧
      (-2 ^ 31 ≤ (2147483647 : Int) ∧ (2147483647 : Int) < 2 ^ 31) ∧ (-129 : Int) < -2 ^ 7 ∧ 2 ^ 15 ≤ (32768 : Int) ∧
      (-8388609 : Int) < -2 ^ 23 ∧ 2 ^ 31 ≤ (2147483648 : Int)) ∧
    (∀ ch ∈ [Char.ofNat 127], ch.toNat < 128) ∧ ∃ ch ∈ [Char.ofNat 128], 128 ≤ ch.toNat := ⟨by omega, by omega, by simp, Char.ofNat 128, by simp, by decide⟩

theorem witness_ResetStateOfTheSpec :
    ({ Platform.absent with resetIp := some 0x0010 } : Platform).resetIp = some 0x0010 ∧ Platform.absent.resetIp = none := ⟨rfl, rfl⟩

end Sys2Proof.Tests
end

section
/-! PROOF. What an instruction does once the registers it reads are ready: one of a few shapes. The case split over the
instructions is made once, in `exec_body`; what every instruction keeps is then a case split over the shapes. -/

namespace Sys2Proof.Machine

open Sys2Proof.Safety

variable {i : Instr} {s t u : State} {go : Result}

/-- The update may write fl and draw free values, and does nothing else. -/
def OnlyFlags (flags : State → State) (s : State) : Prop := ∃ f n, flags s = { s with flags := f, draws := n }

theorem onlyFlags_arithFlags (v : Sum) : OnlyFlags (arithFlags v) s := ⟨_, _, rfl⟩
theorem onlyFlags_logicFlags (v : Word) : OnlyFlags (logicFlags v) s := ⟨_, _, rfl⟩
theorem onlyFlags_freeFlags (v : Word) : OnlyFlags (freeFlags v) s := ⟨_, _, rfl⟩
theorem onlyFlags_csrDraw (name : Csr) : OnlyFlags (csrDraw name) s := by cases name <;> exact ⟨_, _, rfl⟩

/-- A CSR read draws at most, and leaves fl alone. -/
theorem csrDraw_flags (name : Csr) (s : State) : (csrDraw name s).flags = s.flags := by cases name <;> rfl

/-- A state that `m` answers is what one byte or word store left. -/
def Stores (m : Except Refusal State) (s : State) : Prop :=
  ∀ u, m = .ok u → ∃ a, (∃ v, storeByte a v s = .ok u) ∨ ∃ v, storeWord a v s = .ok u

theorem stores_byte (ea : Except Refusal Word) (v : Byte) : Stores (do storeByte (← ea) v s) s := by
  cases ea with
  | error e => rintro u ⟨⟩
  | ok a => exact fun u h => ⟨a, .inl ⟨v, h⟩⟩

theorem stores_word (ea : Except Refusal Word) (v : Word) : Stores (do storeWord (← ea) v s) s := by
  cases ea with
  | error e => rintro u ⟨⟩
  | ok a => exact fun u h => ⟨a, .inr ⟨v, h⟩⟩

/-- A store changes memory and the record of outstanding stores only. -/
theorem Stores.eq_ok {m : Except Refusal State} (hm : Stores m s) (h : m = .ok u) :
    u = { s with mem := u.mem, unfenced := u.unfenced } := by
  obtain ⟨a, ⟨v, hv⟩ | ⟨v, hv⟩⟩ := hm u h
  · exact (storeByte_frame hv).1
  · exact (storeWord_frame hv).1

/-- The instruction writes the CSR of this number: csrw, or clri. -/
def WritesCsr (i : Instr) (csr : BitVec 6) : Prop := (∃ rs, i = .csrw rs csr) ∨ i = .clri csr

theorem WritesCsr.destination_eq {csr : BitVec 6} (h : WritesCsr i csr) : destination i = none := by
  obtain ⟨rs, rfl⟩ | rfl := h <;> rfl

/-- The instruction reads the CSR of this number: csrr, or ip. -/
def ReadsCsr (i : Instr) (csr : BitVec 6) : Prop := ∃ d, i = .csrr d csr ∨ i = .ip d csr

/-- The shapes of what an instruction does once the registers it reads are ready. Each says what the instruction is by
the lists of Safety.lean: its destination, whether it stores, is of class FN, or may jump. -/
inductive Body (i : Instr) (s : State) : Result → Prop where
  /-- a value is written to the destination, or to zr where the instruction has none (R28) -/
  | write (rd : Reg) (v : Word) (flags : State → State) (hd : (destination i).getD .zr = rd) (hf : OnlyFlags flags s)
      (hk : leavesFlags i = true → (flags s).flags = s.flags) : Body i s (writeBack rd v flags s)
  /-- szr with a tested register that is not 0 (R131) -/
  | skip (d a b : Reg) (v : Word) (hi : i = .szr d a b) (hb : s.params.szrRoles = .firstIsValue → s.reg b ≠ 0) :
      Body i s (.next (freeFlags v s).advance)
  /-- a load (R195) -/
  | load (rd : Reg) (m : Except Refusal Word) (hd : destination i = some rd) : Body i s (load rd m s)
  /-- a store (R198, R199) -/
  | store (m : Except Refusal State) (hd : destination i = none) (hw : storesToMemory i = true) (hm : Stores m s) :
      Body i s (afterStore m)
  /-- an exchange, which reads its destination (R200, R201) -/
  | exchange (rw : Reg) (old : Except Refusal Word) (m : Except Refusal State) (hd : destination i = some rw)
      (hr : rw ∈ sources i) (hw : storesToMemory i = true) (hm : Stores m s) : Body i s (afterExchange rw old m)
  /-- a jump or a taken branch (R175) -/
  | jump (a : Word) (hd : destination i = none) (hj : mayJump i = true) : Body i s (.next (s.jumpTo a))
  /-- a linking jump (R175 c) -/
  | link (a : Word) (hd : destination i = some .rp) (hj : mayJump i = true) : Body i s (linkAndJump a s)
  /-- no register is written and the next instruction follows: flags, the store record or a flush that waits may change -/
  | advance (f : Flags) (flush : Bool) (fenced : List Word) (hd : destination i = none)
      (hk : leavesFlags i = true → f = s.flags) :
      Body i s (.next { s with flags := f, flushPending := flush, unfenced := fenced }.advance)
  /-- a CSR is written (R217) -/
  | csrWritten (csr : BitVec 6) (name : Csr) (v : Word) (u : State) (hi : WritesCsr i csr)
      (hc : csrNamed s.platform.csrMap csr = some name) (hu : writeCsr name csr v s = .ok u) : Body i s (.next u.advance)
  /-- fence or wfi waits (R222, R225) -/
  | wait (hd : destination i = none) : Body i s (.next s)
  /-- bkpt and sysc (R218, R220) -/
  | trap (cause : Cause) (hd : destination i = none) : Body i s (takeTrap cause s)
  /-- rfi (R224) -/
  | trapReturn (r : TrapReturn) (hi : i = .rfi) : Body i s (returnFromTrap r s)
  /-- a read of a CSR that is not bound (R216) -/
  | unbound (csr : BitVec 6) (hi : ReadsCsr i csr) (hc : csrNamed s.platform.csrMap csr = none) :
      Body i s (.refused .unboundCsr)
  /-- any other refusal; no such instruction has a destination -/
  | refuse (why : Refusal) (hd : destination i = none) : Body i s (.refused why)
  /-- wfi with nothing that can wake it (R225) -/
  | sleep (a : Word) (hd : destination i = none) : Body i s (.fault (.sleeping a))

/-- The meaning of an instruction: held while a register it reads is pending (R27), and then one of the shapes. -/
def Meaning (i : Instr) (s : State) : Prop := ∃ go, exec i s = hold (sources i) s go ∧ Body i s go

/-! The meanings that go by cases. -/

theorem csrWrite_unbound {csr : BitVec 6} (rs : Reg) (hc : csrNamed s.platform.csrMap csr = none) :
    csrWrite rs csr s = .refused .unboundCsr := by simp [csrWrite, hc]

theorem csrWrite_refused {csr : BitVec 6} {name : Csr} {rs : Reg} {why : Refusal}
    (hc : csrNamed s.platform.csrMap csr = some name) (hu : writeCsr name csr (s.reg rs) s = .error why) :
    csrWrite rs csr s = hold [rs] s (.refused why) := by simp [csrWrite, hc, hu]

theorem csrWrite_done {csr : BitVec 6} {name : Csr} {rs : Reg} (hc : csrNamed s.platform.csrMap csr = some name)
    (hu : writeCsr name csr (s.reg rs) s = .ok u) : csrWrite rs csr s = hold [rs] s (.next u.advance) := by
  simp [csrWrite, hc, hu]

/-- A CSR write of a bound number holds on its source first (R217). -/
theorem body_csrWrite {csr : BitVec 6} {name : Csr} (rs : Reg) (hi : WritesCsr i csr)
    (hc : csrNamed s.platform.csrMap csr = some name) : ∃ go, csrWrite rs csr s = hold [rs] s go ∧ Body i s go := by
  cases hu : writeCsr name csr (s.reg rs) s with
  | error why => exact ⟨_, csrWrite_refused hc hu, .refuse why hi.destination_eq⟩
  | ok u => exact ⟨_, csrWrite_done hc hu, .csrWritten csr name _ u hi hc hu⟩

/-- csrr and ip read no register. -/
theorem body_csrRead {csr : BitVec 6} {rd : Reg} (hi : ReadsCsr i csr) (hd : destination i = some rd) :
    Body i s (csrRead rd csr s) := by
  unfold csrRead
  split
  · exact .unbound csr hi ‹_›
  · exact .write rd _ _ (by simp [hd]) (onlyFlags_csrDraw _) fun _ => csrDraw_flags _ s

/-- szr with one source the value and the other tested. -/
theorem body_szr {d a b : Reg} (v tested : Word) (hb : s.params.szrRoles = .firstIsValue → tested = s.reg b) :
    Body (.szr d a b) s (if tested = 0 then writeBack d v (freeFlags v) s else .next (freeFlags v s).advance) := by
  split
  · exact .write _ _ _ rfl (onlyFlags_freeFlags v) nofun
  · rename_i ht
    exact .skip d a b v rfl fun h => hb h ▸ ht

/-! SZR_ROLES says which source of szr is the value and which is tested (R131). -/

theorem execSzr_firstIsValue {d a b : Reg} (hr : s.params.szrRoles = .firstIsValue) :
    execSzr d a b s = hold [a, b] s (if s.reg b = 0 then writeBack d (s.reg a) (freeFlags (s.reg a)) s
      else .next (freeFlags (s.reg a) s).advance) := by simp only [execSzr, hr]

theorem execSzr_secondIsValue {d a b : Reg} (hr : s.params.szrRoles = .secondIsValue) :
    execSzr d a b s = hold [a, b] s (if s.reg a = 0 then writeBack d (s.reg b) (freeFlags (s.reg b)) s
      else .next (freeFlags (s.reg b) s).advance) := by simp only [execSzr, hr]

theorem meaning_szr (d a b : Reg) (s : State) : Meaning (.szr d a b) s := by
  cases hr : s.params.szrRoles with
  | firstIsValue => exact ⟨_, execSzr_firstIsValue hr, body_szr _ _ fun _ => rfl⟩
  | secondIsValue => exact ⟨_, execSzr_secondIsValue hr, body_szr _ _ fun h => by simp [hr] at h⟩

/-- Everything an instruction can do. Only a csrw of an unbound number does not look at its source first (R217). -/
theorem exec_body (i : Instr) (s : State) :
    (∃ rs csr, i = .csrw rs csr ∧ csrNamed s.platform.csrMap csr = none ∧ exec i s = .refused .unboundCsr) ∨
    Meaning i s := by
  cases i with
  | csrw rs csr =>
    cases hc : csrNamed s.platform.csrMap csr with
    | none => exact .inl ⟨rs, csr, rfl, hc, csrWrite_unbound rs hc⟩
    | some name => exact .inr (body_csrWrite rs (.inl ⟨rs, rfl⟩) hc)
  | clri csr =>
    refine .inr ?_
    cases hc : csrNamed s.platform.csrMap csr with
    | none => exact ⟨_, csrWrite_unbound .zr hc, .refuse _ rfl⟩
    | some name =>
      obtain ⟨go, h, hb⟩ := body_csrWrite .zr (.inr rfl) hc
      exact ⟨go, h.trans (hold_ready go (by simp)), hb⟩
  | csrr d csr => exact .inr ⟨_, rfl, body_csrRead ⟨d, .inl rfl⟩ rfl⟩
  | ip d csr => exact .inr ⟨_, rfl, body_csrRead ⟨d, .inr rfl⟩ rfl⟩
  | szr d a b => exact .inr (meaning_szr d a b s)
  | add | addc | sub | subb | addi | cmpi | mov | test | neg | cmp | inc | dec | alloc =>
    exact .inr ⟨_, rfl, .write _ _ _ rfl (onlyFlags_arithFlags _) nofun⟩
  | ior | and | xor | iori | ioriu | andi | andiu | biti | xori | xoriu | cut4 | cut8 | clrl | not | not8 =>
    exact .inr ⟨_, rfl, .write _ _ _ rfl (onlyFlags_logicFlags _) nofun⟩
  | slt | sltu | lli | lui | bsl | bsr | bsrs | brr | bsld | bsrd | bsrsd | brrd | sneg | spos | snez | clr =>
    exact .inr ⟨_, rfl, .write _ _ _ rfl (onlyFlags_freeFlags _) nofun⟩
  | jmp | jmpr | jmpd | ret => exact .inr ⟨_, rfl, .jump _ rfl rfl⟩
  | jmpl | jmprl | jmpdl => exact .inr ⟨_, rfl, .link _ rfl rfl⟩
  | brh cond imm =>
    refine .inr ⟨execBrh cond imm s, rfl, ?_⟩
    unfold execBrh
    split
    · exact .jump _ rfl rfl
    · exact .advance _ _ _ rfl fun _ => rfl
  | mld | mldw => exact .inr ⟨_, rfl, .load _ _ rfl⟩
  | mst | mclr => exact .inr ⟨_, rfl, .store _ rfl rfl (stores_byte _ _)⟩
  | mstw | mclrw => exact .inr ⟨_, rfl, .store _ rfl rfl (stores_word _ _)⟩
  | xch => exact .inr ⟨_, rfl, .exchange _ _ _ rfl (by simp [sources]) rfl (stores_byte _ _)⟩
  | xchw => exact .inr ⟨_, rfl, .exchange _ _ _ rfl (by simp [sources]) rfl (stores_word _ _)⟩
  | prfi | nop | prfd | ftlb => exact .inr ⟨_, rfl, .advance _ _ _ rfl fun _ => rfl⟩
  | scf | rscf => exact .inr ⟨_, rfl, .advance _ _ _ rfl nofun⟩
  | bkpt | sysc => exact .inr ⟨_, rfl, .trap _ rfl⟩
  | fence =>
    refine .inr ⟨execFence s, rfl, ?_⟩
    unfold execFence
    split
    · exact .wait rfl
    · exact .advance _ _ _ rfl fun _ => rfl
  | wfi =>
    refine .inr ⟨execWfi s, rfl, ?_⟩
    unfold execWfi
    split
    · exact .advance _ _ _ rfl fun _ => rfl
    · split
      · exact .wait rfl
      · exact .sleep _ rfl
  | rfi =>
    refine .inr ⟨execRfi s, rfl, ?_⟩
    unfold execRfi
    split
    · exact .refuse _ rfl
    · exact .trapReturn _ rfl
  | reservedB840 | reservedB880 | reserved01111 | reservedBrhCond011 | reservedBrhCond111 =>
    exact .inr ⟨_, rfl, .refuse _ rfl⟩

/-! What each shape can answer as a state. -/

/-- A write of a destination that answers a state trapped, or wrote (R28). -/
theorem writeBack_next {rd : Reg} {v : Word} {flags : State → State} (h : writeBack rd v flags s = .next t) :
    takeTrap (.pendingWrite rd) s = .next t ∨ t = ((flags s).setReg rd v).advance := by
  cases hp : s.pending rd with
  | true => exact .inl ((writeBack_pending v flags hp).symm.trans h)
  | false => rw [writeBack_ready v flags hp] at h; cases h; exact .inr rfl

/-- A linking jump that answers a state trapped, or linked and jumped (R175). -/
theorem linkAndJump_next {a : Word} (h : linkAndJump a s = .next t) :
    takeTrap (.pendingWrite .rp) s = .next t ∨ t = (s.setReg .rp (s.addr + s.params.linkOffset)).jumpTo a := by
  cases hp : s.pending .rp with
  | true => exact .inl ((linkAndJump_pending a hp).symm.trans h)
  | false => rw [linkAndJump_ready a hp] at h; cases h; exact .inr rfl

/-- A load of a pending register raises the fault before it looks at memory (R195 c). -/
theorem load_pending {rd : Reg} (m : Except Refusal Word) (h : s.pending rd = true) :
    load rd m s = takeTrap (.pendingWrite rd) s := by
  have hz : rd ≠ .zr := by rintro rfl; simp at h
  simp [load, hz, h]

/-- A load that answers a state was a prefetch, trapped, or started (R195). -/
theorem load_next {rd : Reg} {m : Except Refusal Word} (h : load rd m s = .next t) :
    t = s.advance ∨ takeTrap (.pendingWrite rd) s = .next t ∨ ∃ v, t = (s.loadDrawn.startLoad rd v).advance := by
  unfold load at h
  split at h
  · cases h; exact .inl rfl
  · split at h
    · exact .inr (.inl h)
    · split at h
      · cases h
      · cases h; exact .inr (.inr ⟨_, rfl⟩)

/-- A store that answers a state stored. -/
theorem afterStore_next {m : Except Refusal State} (h : afterStore m = .next t) : ∃ u, m = .ok u ∧ t = u.advance := by
  cases m with
  | error => cases h
  | ok u => cases h; exact ⟨u, rfl, rfl⟩

/-- An exchange that answers a state stored and started its load. -/
theorem afterExchange_next {rw : Reg} {old : Except Refusal Word} {m : Except Refusal State}
    (h : afterExchange rw old m = .next t) : ∃ u v, m = .ok u ∧ t = (u.loadDrawn.startLoad rw v).advance := by
  cases m with
  | error => cases old <;> cases h
  | ok u =>
    cases old with
    | error => cases h
    | ok v => cases h; exact ⟨u, v, rfl, rfl⟩

/-- A CSR write changes fl, the pending interrupt and the CSR words at most, and fl only as the CSR fl (R217). -/
theorem writeCsr_ok {name : Csr} {csr : BitVec 6} {v : Word} (h : writeCsr name csr v s = .ok u) :
    u = { s with flags := u.flags, pen := u.pen, csrs := u.csrs } ∧ (name ≠ .fl → u.flags = s.flags) := by
  cases name with
  | fl => cases h; exact ⟨rfl, fun hn => absurd rfl hn⟩
  | interruptInterface => cases h; exact ⟨rfl, fun _ => rfl⟩
  | pen =>
    simp only [writeCsr] at h
    split at h
    · cases h; exact ⟨rfl, fun _ => rfl⟩
    · cases h
  | ip | ira | vmConfig | readOnly => cases h

/-! What a completed instruction leaves as it was. -/

/-- `i` is of class FN and writes no CSR that is fl: the instructions that leave fl alone (R33). -/
def KeepsFlags (i : Instr) (s : State) : Prop :=
  leavesFlags i = true ∧ ∀ csr, WritesCsr i csr → csrNamed s.platform.csrMap csr ≠ some .fl

/-- The frame of an instruction: the registers but its destination; fl where it keeps it; and the next address where
it is no jump. -/
structure Completed (i : Instr) (s t : State) : Prop where
  reg : ∀ r, destination i ≠ some r → t.reg r = s.reg r
  flags : KeepsFlags i s → t.flags = s.flags
  addr : mayJump i = false → t.addr = s.addr + 2

/-- A state with the registers and the address of `s`, taken to the next instruction. -/
theorem Completed.advance (hr : ∀ r, destination i ≠ some r → u.reg r = s.reg r) (ha : u.ip = s.ip)
    (hf : KeepsFlags i s → u.flags = s.flags) : Completed i s u.advance :=
  ⟨hr, hf, fun _ => by rw [State.addr_advance, State.addr_congr ha]⟩

/-- A write to the destination, or to zr where there is none, leaves every other register. -/
theorem reg_setReg_of_ne_destination {r : Reg} (v : Word) (hr : destination i ≠ some r) :
    (s.setReg ((destination i).getD .zr) v).reg r = s.reg r := by
  rw [State.reg_setReg, if_neg]
  rintro ⟨rfl, hz⟩
  cases hd : destination i with
  | none => exact hz (by simp [hd])
  | some d => exact hr (by simp [hd])

/-- The ways an instruction answers a next state: it changes nothing, a trap is taken, it is rfi, or it completes. -/
inductive Ended (i : Instr) (s : State) : State → Prop where
  | held : Ended i s s
  | trapped {t : State} (cause : Cause) (h : takeTrap cause s = .next t) : Ended i s t
  | returned {t : State} (r : TrapReturn) (hi : i = .rfi) (h : returnFromTrap r s = .next t) : Ended i s t
  | completed {t : State} (h : Completed i s t) : Ended i s t

/-- The ways a shape answers a next state. -/
theorem Body.ended (hb : Body i s go) (h : go = .next t) : Ended i s t := by
  cases hb with
  | write rd v flags hd hf hk =>
    rcases writeBack_next h with h | rfl
    · exact .trapped _ h
    · obtain ⟨f, n, hf⟩ := hf
      subst hd
      refine .completed (.advance (fun r hr => ?_) (by simp [hf]) fun hl => hk hl.1)
      rw [reg_setReg_of_ne_destination v hr, hf]
      rfl
  | skip d a b v hi hb =>
    cases h
    subst hi
    exact .completed (.advance (fun _ _ => rfl) rfl nofun)
  | load rd m hd =>
    rcases load_next h with rfl | h | ⟨v, rfl⟩
    · exact .completed (.advance (fun _ _ => rfl) rfl fun _ => rfl)
    · exact .trapped _ h
    · exact .completed (.advance (fun _ _ => rfl) rfl fun _ => rfl)
  | store m hd hw hm =>
    obtain ⟨u, hu, rfl⟩ := afterStore_next h
    rw [hm.eq_ok hu]
    exact .completed (.advance (fun _ _ => rfl) rfl fun _ => rfl)
  | exchange rw old m hd hr hw hm =>
    obtain ⟨u, v, hu, rfl⟩ := afterExchange_next h
    rw [hm.eq_ok hu]
    exact .completed (.advance (fun _ _ => rfl) rfl fun _ => rfl)
  | jump a hd hj =>
    cases h
    exact .completed ⟨fun _ _ => rfl, fun _ => rfl, fun hn => by simp [hj] at hn⟩
  | link a hd hj =>
    rcases linkAndJump_next h with h | rfl
    · exact .trapped _ h
    · refine .completed ⟨fun r hr => ?_, fun _ => rfl, fun hn => by simp [hj] at hn⟩
      rw [State.reg_congr (State.jumpTo_regs ..), State.reg_setReg, if_neg]
      rintro ⟨rfl, -⟩
      exact hr hd
  | advance f flush fenced hd hk =>
    cases h
    exact .completed (.advance (fun _ _ => rfl) rfl fun hl => hk hl.1)
  | csrWritten csr name v u hi hc hu =>
    cases h
    obtain ⟨he, hf⟩ := writeCsr_ok hu
    refine .completed (.advance (fun r _ => State.reg_congr (by rw [he]) r) (by rw [he]) fun hl => hf ?_)
    rintro rfl
    exact hl.2 csr hi hc
  | wait hd => cases h; exact .held
  | trap cause hd => exact .trapped cause h
  | trapReturn r hi => exact .returned r hi h
  | unbound | refuse | sleep => cases h

/-- Every way an instruction answers a next state. -/
theorem exec_ended (h : exec i s = .next t) : Ended i s t := by
  rcases exec_body i s with ⟨_, _, -, -, hu⟩ | ⟨go, hgo, hb⟩
  · rw [hu] at h; cases h
  · rcases hold_next (hgo.symm.trans h) with ⟨-, rfl⟩ | ⟨-, h⟩
    · exact .held
    · exact hb.ended h

/-- With no TRAP_ENTRY an instruction other than rfi that answers a state was held or completed (R284). -/
theorem exec_completed (h : exec i s = .next t) (hi : i ≠ .rfi) (he : s.platform.trapEntry = none) :
    t = s ∨ Completed i s t := by
  cases exec_ended h with
  | held => exact .inl rfl
  | trapped cause h => rw [takeTrap_absent cause he] at h; cases h
  | returned r hr => exact absurd hr hi
  | completed hc => exact .inr hc

/-! A trap entry of a platform that writes no flags leaves fl (R289). -/

theorem TrapWrite.apply_flags {info : Word} {w : TrapWrite} (h : w.apply info s t = .ok u)
    (hw : ∀ v, w ≠ .flags v) : u.flags = t.flags := by
  cases w with
  | flags e => exact absurd rfl (hw e)
  | reg _ e | csr _ e | ira e | savedFlags e | masked e | pen e | flushTlb e | flushWaits e | fence e =>
    simp only [TrapWrite.apply] at h
    cases he : e.value info s with
    | error => rw [he] at h; cases h
    | ok v => rw [he] at h; cases h; rfl
  | memory a e =>
    simp only [TrapWrite.apply] at h
    cases ha : a.value info s with
    | error => rw [ha] at h; cases h
    | ok v =>
      cases he : e.value info s with
      | error => rw [ha, he] at h; cases h
      | ok w =>
        rw [ha, he] at h
        rw [(storeWord_frame h).1]

theorem applyWrites_flags {info : Word} {ws : List TrapWrite} (h : applyWrites info s ws t = .ok u)
    (hw : ∀ v, TrapWrite.flags v ∉ ws) : u.flags = t.flags := by
  induction ws generalizing t with
  | nil => cases h; rfl
  | cons w ws ih =>
    simp only [applyWrites] at h
    cases ht : w.apply info s t with
    | error => rw [ht] at h; cases h
    | ok t' =>
      rw [ht] at h
      have hrest : u.flags = t'.flags := ih h fun v hv => hw v (List.mem_cons_of_mem _ hv)
      exact hrest.trans (TrapWrite.apply_flags ht fun v hv => hw v (hv ▸ List.mem_cons_self))

theorem completeEntry_flags {q : TrapSequence} {cause : Cause} (h : completeEntry q cause s = .ok t)
    (hq : ∀ v, TrapWrite.flags v ∉ q.writes) : t.flags = s.flags := by
  obtain ⟨save, handler, rpAfter, u, v, -, -, -, hu, hv, rfl⟩ := completeEntry_ok h
  have hflags : v.flags = s.flags := by
    have hsave : v.flags = u.flags := by rw [(storeWord_frame hv).1]
    rw [hsave, applyWrites_flags hu hq, penAfterEntry_flags]
  cases rpAfter <;> exact hflags

theorem takeTrap_flags {cause : Cause} (h : takeTrap cause s = .next t)
    (hk : ∀ e, s.platform.trapEntry = some e → EntryKeepsFlags e) : t.flags = s.flags := by
  obtain ⟨e, he, h⟩ := takeTrap_next h
  rcases enterTrap_next h with ⟨-, rfl⟩ | ⟨-, h⟩
  · rfl
  · exact completeEntry_flags h (hk e he cause)

/-! A pending destination (R28). -/

/-- A shape raises the fault of a pending destination that no source of it is; szr must be about to write and a CSR
that is read must be bound. -/
theorem Body.raises {rd : Reg} (hb : Body i s go) (hd : destination i = some rd) (hp : s.pending rd = true)
    (hr : Ready (sources i) s)
    (hszr : ∀ d a b, i = .szr d a b → s.params.szrRoles = .firstIsValue ∧ s.reg b = 0)
    (hcsr : ∀ csr, ReadsCsr i csr → csrNamed s.platform.csrMap csr ≠ none) :
    go = takeTrap (.pendingWrite rd) s := by
  cases hb with
  | write rd' v flags hd' =>
    obtain rfl : rd = rd' := by simpa [hd] using hd'
    exact writeBack_pending v flags hp
  | skip d a b v hi hb => exact absurd (hszr d a b hi).2 (hb (hszr d a b hi).1)
  | load rd' m hd' =>
    obtain rfl : rd = rd' := by simpa [hd] using hd'
    exact load_pending m hp
  | exchange rw old m hd' hrw =>
    obtain rfl : rd = rw := by simpa [hd] using hd'
    exact absurd hp (by simp [hr rd hrw])
  | link a hd' =>
    obtain rfl : rd = .rp := by simpa [hd] using hd'
    exact linkAndJump_pending a hp
  | csrWritten csr _ _ _ hi => simp [hi.destination_eq] at hd
  | trapReturn r hi => subst hi; cases hd
  | unbound csr hi hc => exact absurd hc (hcsr csr hi)
  | store _ hn | jump _ hn | advance _ _ _ hn | wait hn | trap _ hn | refuse _ hn | sleep _ hn => simp [hd] at hn

/-! Events (R29, R286). -/

/-- No event can occur where nothing is pending and there is no interrupt source (R286). -/
theorem State.quiet_iff : s.quiet = true ↔ (∀ r, s.pending r = false) ∧ s.platform.interruptSource = false := by
  simp [State.quiet, State.anyPending_eq_false_iff]

theorem step_quiet (h : s.quiet = true) : step s = proceed s.tick := by simp [step, h]

theorem State.nextEvent_of_head? {e : Event} (h : s.inputs.head? = some e) : s.nextEvent = e := by
  obtain ⟨rest, hrest⟩ := List.head?_eq_some_iff.mp h
  simp [State.nextEvent, hrest]

/-- The load of a pending register arrives at its event (R29). -/
theorem step_resolve {r : Reg} (he : s.nextEvent = .resolve r) (hp : s.pending r = true) :
    step s = .next (s.tick.resolve r) := by
  have hq : s.quiet = false := Bool.eq_false_iff.mpr fun h => by simp [(State.quiet_iff.mp h).1 r] at hp
  simp [step, hq, he, hp]

/-- A resolution leaves memory, the special registers, the TLB and the outside alone (R29). -/
theorem restSame_resolve (r : Reg) (s : State) : RestSame s (s.resolve r) :=
  ⟨fun a _ => State.readByte_congr (s.resolve_mem r) a,
    ⟨by simp, by simp, by simp, by simp, by simp, by simp, State.csrWord_congr (s.resolve_csrs r)⟩,
    ⟨by simp, by simp⟩, ⟨by simp, by simp, by simp, by simp, by simp, by simp⟩⟩

end Sys2Proof.Machine
end

section
/-! PROOF. The obligations of 10_state.md. -/

namespace Sys2Proof.Proofs

open Sys2Proof.Machine Sys2Proof.Safety

/-- Settles O1: zr has no slot in a bank, so it reads the default and a write has nothing to change (R21). -/
theorem zeroRegisterReadsZeroAndDropsWrites : Obligations.ZeroRegisterReadsZeroAndDropsWrites := fun s _ =>
  ⟨s.reg_zr, s.pending_zr, rfl, rfl⟩

/-- Settles O60: each field is read off the reset state, and with VM absent translation is the identity. -/
theorem resetStateOfTheSpec : Obligations.ResetStateOfTheSpec :=
  ⟨fun _ _ _ => ⟨fun _ h => by simp [State.resetOf, h], fun h => by simp [State.resetOf, h], rfl, rfl⟩,
    rfl, rfl, fun r => by cases r <;> rfl, rfl, rfl, rfl, rfl, rfl, rfl, fun a => State.translate_identity rfl a⟩

/-- Settles O26, by what a resolution does to each register and load, and by the step at its event. -/
theorem resolveDeliversTheLoadedValue : Obligations.ResolveDeliversTheLoadedValue := by
  intro r v s h
  have hreg : (s.resolve r).reg r = v := by simp [State.reg_resolve, h]
  have hpending : (s.resolve r).pending r = false := by simp [State.pending_eq_false_iff, State.awaited_resolve]
  have hregs : RegsSameBut [r] s (s.resolve r) := fun q hq => by
    rw [State.reg_resolve, if_neg (by simpa using hq)]
  have hloads : LoadsSameBut [r] s (s.resolve r) := fun q hq => by
    rw [State.awaited_resolve, if_neg (by simpa using hq)]
  exact ⟨hreg, hpending, hregs, hloads, s.resolve_flags r, State.addr_congr (s.resolve_ip r), restSame_resolve r s,
    fun hi => step_resolve (State.nextEvent_of_head? hi) (s.pending_eq_true_iff r |>.mpr ⟨v, h⟩)⟩

/-- Settles O27: every meaning but that of an unbound csrw is a hold on its sources. -/
theorem pendingSourceHoldsTheInstruction : Obligations.PendingSourceHoldsTheInstruction := by
  intro i r s hr hp hbound
  rcases exec_body i s with ⟨rs, csr, hi, hc, -⟩ | ⟨go, hgo, -⟩
  · exact absurd hc (hbound rs csr hi)
  · exact hgo.trans (hold_pending go hr hp)

/-- Settles O28: the hold is passed, and the shape of what follows checks its destination first. -/
theorem pendingDestinationRaisesTheFault : Obligations.PendingDestinationRaisesTheFault := by
  intro i rd s hd hr hp hszr hcsr
  have hraises : Raises i s (.pendingWrite rd) := by
    rcases exec_body i s with ⟨rs, csr, rfl, -, -⟩ | ⟨go, hgo, hb⟩
    · cases hd
    · rw [Raises, hgo, hold_ready go hr]
      exact hb.raises hd hp hr hszr fun csr ⟨d, hi⟩ => hcsr d csr hi
  exact ⟨hraises, fun he => hraises.trans (takeTrap_absent _ he)⟩

/-- Settles O46, by the cases of a step; proceeding is the waiting entry or the instruction. -/
theorem everyStepIsAnInstructionOrAPossibleEvent : Obligations.EveryStepIsAnInstructionOrAPossibleEvent := by
  intro s
  have hgoesOn : step s = proceed s.tick → s.entering = none ∧ step s = runInstruction s.tick ∨
      ∃ cause, s.entering = some cause ∧ step s = takeTrap cause s.tick := by
    intro h
    cases he : s.entering with
    | none => exact .inl ⟨rfl, h.trans (proceed_running he)⟩
    | some cause => exact .inr ⟨cause, rfl, h.trans (proceed_entering he)⟩
  refine ⟨?_, fun hp hs => hgoesOn (step_quiet (State.quiet_iff.mpr ⟨hp, hs⟩))⟩
  rcases step_cases s with h | h | h | h
  · exact .inl (hgoesOn h)
  · exact .inr (.inl h)
  · exact .inr (.inr (.inl h))
  · exact .inr (.inr (.inr h))

/-- Settles O50, by the frame of a completed instruction. -/
theorem onlyTheDestinationRegisterChanges : Obligations.OnlyTheDestinationRegisterChanges := by
  intro i s t r h hi he hr
  rcases exec_completed h hi he with rfl | hc
  · rfl
  · exact hc.reg r hr

/-- Settles O52, by the frame of a completed instruction and that of a trap entry that writes no flags. -/
theorem classFnInstructionsLeaveTheFlags : Obligations.ClassFnInstructionsLeaveTheFlags := by
  intro i s t hl h hcsr hentry
  cases exec_ended h with
  | held => rfl
  | trapped cause h => exact takeTrap_flags h hentry
  | returned r hi => subst hi; cases hl
  | completed hc => exact hc.flags ⟨hl, hcsr⟩

/-- Settles O53, by the frame of a completed instruction. -/
theorem instructionsThatDoNotJumpAdvance : Obligations.InstructionsThatDoNotJumpAdvance := by
  intro i s t hj he h
  have hi : i ≠ .rfi := by rintro rfl; cases hj
  exact (exec_completed h hi he).imp_right fun hc => hc.addr hj

end Sys2Proof.Proofs
end

section
/-! PROOF. What no step changes: the image, the parameters, the platform and a separate instruction memory; and how
memory is kept. The case split over what an instruction does is that over the shapes of `Body`. -/

namespace Sys2Proof.Machine

open Sys2Proof.Safety

variable {i : Instr} {s t u : State} {go : Result}

/-- What of a state no step changes. -/
def State.fixed (s : State) : List (Word × Nat) × Params × Platform × Memory :=
  (s.image, s.params, s.platform, s.code)

theorem State.fixed_eq_iff : t.fixed = s.fixed ↔
    t.image = s.image ∧ t.params = s.params ∧ t.platform = s.platform ∧ t.code = s.code := by
  simp [State.fixed]

/-- Memory is kept and what no step changes is unchanged. -/
structure Kept (s t : State) : Prop where
  memory : MemoryKept s t
  fixed : t.fixed = s.fixed

theorem Kept.of_mem (hm : t.mem = s.mem) (hf : t.fixed = s.fixed) : Kept s t := ⟨.of_mem hm, hf⟩

theorem Kept.trans (h : Kept s t) (h' : Kept t u) : Kept s u := by
  obtain ⟨himage, hparams, -, -⟩ := State.fixed_eq_iff.mp h.fixed
  exact ⟨h.memory.trans h'.memory hparams himage, h'.fixed.trans h.fixed⟩

/-- One store changes memory only, and keeps it. -/
theorem Stores.kept {m : Except Refusal State} (hm : Stores m s) (h : m = .ok u) : Kept s u := by
  have hfixed : u.fixed = s.fixed := by rw [hm.eq_ok h]; rfl
  obtain ⟨a, ⟨v, hv⟩ | ⟨v, hv⟩⟩ := hm u h
  · exact ⟨(storeByte_frame hv).2, hfixed⟩
  · exact ⟨(storeWord_frame hv).2, hfixed⟩

/-- A trap entry saves rp by a store that keeps the program text (R64, R289). -/
theorem takeTrap_kept {cause : Cause} (h : takeTrap cause s = .next t) : Kept s t := by
  obtain ⟨e, -, h⟩ := takeTrap_next h
  rcases enterTrap_next h with ⟨-, rfl⟩ | ⟨-, h⟩
  · exact .of_mem rfl rfl
  · obtain ⟨hm, himage, hparams, hplatform, hcode, -⟩ := completeEntry_kept h
    exact ⟨hm, State.fixed_eq_iff.mpr ⟨himage, hparams, hplatform, hcode⟩⟩

/-- A return from a trap keeps memory (R292). -/
theorem returnFromTrap_kept {r : TrapReturn} (h : returnFromTrap r s = .next t) : Kept s t := by
  rcases returnFromTrap_next h with rfl | ⟨rd, -, h⟩ | h
  · exact .of_mem rfl rfl
  · exact takeTrap_kept h
  · obtain ⟨hm, himage, hparams, hplatform, hcode, -⟩ := completeReturn_kept h
    exact ⟨hm, State.fixed_eq_iff.mpr ⟨himage, hparams, hplatform, hcode⟩⟩

/-- What an instruction that takes no trap does to memory: it keeps it, and does not write it unless it is a store or an
exchange (R51). -/
structure MemoryFrame (i : Instr) (s t : State) : Prop where
  kept : Kept s t
  mem : storesToMemory i = false → t.mem = s.mem

theorem MemoryFrame.of_mem (hm : t.mem = s.mem) (hf : t.fixed = s.fixed) : MemoryFrame i s t :=
  ⟨.of_mem hm hf, fun _ => hm⟩

/-- A store or exchange: `t` has the memory that one store left. -/
theorem MemoryFrame.of_stores {m : Except Refusal State} (hw : storesToMemory i = true) (hm : Stores m s)
    (hu : m = .ok u) (ht : t.mem = u.mem) (hf : t.fixed = u.fixed) : MemoryFrame i s t :=
  ⟨(hm.kept hu).trans (.of_mem ht hf), fun hn => by simp [hw] at hn⟩

/-- The ways an instruction answers a next state, by what they do to memory: a trap is taken, it is rfi, or it has the
memory frame. -/
inductive MemoryEnded (i : Instr) (s t : State) : Prop where
  | trapped (cause : Cause) (h : takeTrap cause s = .next t)
  | returned (r : TrapReturn) (hi : i = .rfi) (h : returnFromTrap r s = .next t)
  | framed (h : MemoryFrame i s t)

/-- The ways a shape answers a next state, by what they do to memory. -/
theorem Body.memoryEnded (hb : Body i s go) (h : go = .next t) : MemoryEnded i s t := by
  cases hb with
  | write rd v flags hd hf =>
    rcases writeBack_next h with h | rfl
    · exact .trapped _ h
    · obtain ⟨f, n, hf⟩ := hf
      rw [hf]
      exact .framed (.of_mem rfl rfl)
  | load rd m hd =>
    rcases load_next h with rfl | h | ⟨v, rfl⟩
    · exact .framed (.of_mem rfl rfl)
    · exact .trapped _ h
    · exact .framed (.of_mem rfl rfl)
  | store m hd hw hm =>
    obtain ⟨u, hu, rfl⟩ := afterStore_next h
    exact .framed (.of_stores hw hm hu rfl rfl)
  | exchange rw old m hd hr hw hm =>
    obtain ⟨u, v, hu, rfl⟩ := afterExchange_next h
    exact .framed (.of_stores hw hm hu rfl rfl)
  | link a hd hj =>
    rcases linkAndJump_next h with h | rfl
    · exact .trapped _ h
    · exact .framed (.of_mem rfl rfl)
  | csrWritten csr name v u hi hc hu =>
    cases h
    rw [(writeCsr_ok hu).1]
    exact .framed (.of_mem rfl rfl)
  | skip | jump | advance | wait => cases h; exact .framed (.of_mem rfl rfl)
  | trap cause hd => exact .trapped cause h
  | trapReturn r hi => exact .returned r hi h
  | unbound | refuse | sleep => cases h

/-- The same of an instruction; one that is held changes nothing (R27). -/
theorem exec_memoryEnded (h : exec i s = .next t) : MemoryEnded i s t := by
  rcases exec_body i s with ⟨_, _, -, -, hu⟩ | ⟨go, hgo, hb⟩
  · rw [hu] at h; cases h
  · rcases hold_next (hgo.symm.trans h) with ⟨-, rfl⟩ | ⟨-, h⟩
    · exact .framed (.of_mem rfl rfl)
    · exact hb.memoryEnded h

theorem exec_kept (h : exec i s = .next t) : Kept s t := by
  cases exec_memoryEnded h with
  | trapped cause h => exact takeTrap_kept h
  | returned r _ h => exact returnFromTrap_kept h
  | framed hf => exact hf.kept

theorem proceed_kept (h : proceed s = .next t) : Kept s t := by
  cases he : s.entering with
  | some cause => exact takeTrap_kept ((proceed_entering he).symm.trans h)
  | none =>
    obtain ⟨i, -, h⟩ := runInstruction_next ((proceed_running he).symm.trans h)
    exact exec_kept h

/-- Every step keeps memory and leaves the image, the parameters, the platform and a separate instruction memory. -/
theorem step_kept (h : step s = .next t) : Kept s t := by
  have htick : Kept s s.tick := .of_mem rfl rfl
  rcases step_cases s with hc | ⟨r, -, hc⟩ | ⟨-, hc⟩ | ⟨-, -, -, -, hc⟩ <;> rw [hc] at h
  · exact htick.trans (proceed_kept h)
  · cases h
    exact htick.trans (.of_mem (by simp) (by simp [State.fixed]))
  · cases h
    exact .of_mem rfl rfl
  · exact htick.trans (takeTrap_kept h)

end Sys2Proof.Machine
end

section
/-! PROOF. The effective addresses (R58, R195), and the memory instructions at the spec's choice once the registers
they read are ready: each is its access to memory. -/

namespace Sys2Proof.Machine

open Sys2Proof.Safety

variable {s : State}

theorem byteAddress_toNat (base : Word) (imm : BitVec 5) :
    (byteAddress base imm).toNat = (base.toNat + imm.toNat) % 65536 := by
  have h := imm.isLt
  simp only [byteAddress, byteOffset, BitVec.toNat_add, BitVec.toNat_setWidth]
  omega

theorem wordAddress_toNat (base : Word) (imm : BitVec 5) :
    (wordAddress base imm).toNat = (base.toNat + 2 * imm.toNat) % 65536 := by
  have h := imm.isLt
  simp only [wordAddress, wordOffset, BitVec.toNat_add, BitVec.toNat_shiftLeft, BitVec.toNat_setWidth,
    Nat.shiftLeft_eq]
  omega

/-- An even address is not the last one, so the word at it does not wrap (R57). -/
theorem toNat_add_one_lt_of_even {a : Word} (h : oddAddress a = false) : a.toNat + 1 < 65536 := by
  have hlt := a.isLt
  rw [oddAddress, getLsbD_zero_eq, decide_eq_false_iff_not] at h
  omega

theorem State.effective_byte (h : s.params = Params.spec) (base : Word) (imm : BitVec 5) :
    s.effective base (byteOffset imm) = .ok (byteAddress base imm) := State.effective_spec h ..

theorem State.effective_word (h : s.params = Params.spec) (base : Word) (imm : BitVec 5) :
    s.effective base (wordOffset imm) = .ok (wordAddress base imm) := State.effective_spec h ..

theorem ready_of_subset {qs rs : List Reg} (hr : Ready rs s) (h : qs ⊆ rs) : Ready qs s := fun q hq => hr q (h hq)

/-- A load that is no prefetch and finds its register ready starts (R195). -/
theorem load_ready {rd : Reg} (v : Word) (hz : rd ≠ .zr) (hp : s.pending rd = false) :
    load rd (.ok v) s = .next (s.loadDrawn.startLoad rd v).advance := by
  simp [load, hz, hp]

section
variable {r base : Reg} {imm : BitVec 5} (hc : AtSpecChoice s)
include hc

theorem exec_mst (hr : Ready [base, r] s) : exec (.mst r base imm) s =
    afterStore (storeByte (byteAddress (s.reg base) imm) (lowByte (s.reg r)) s) := by
  have h : exec (.mst r base imm) s = _ := hold_ready _ hr
  rw [h, State.effective_byte hc.1, hc.1]
  rfl

theorem exec_mclr (hr : Ready [base] s) : exec (.mclr base imm) s =
    afterStore (storeByte (byteAddress (s.reg base) imm) 0 s) := by
  have h : exec (.mclr base imm) s = _ := hold_ready _ hr
  rw [h, State.effective_byte hc.1]
  rfl

theorem exec_mstw (hr : Ready [base, r] s) : exec (.mstw r base imm) s =
    afterStore (storeWord (wordAddress (s.reg base) imm) (s.reg r) s) := by
  have h : exec (.mstw r base imm) s = _ := hold_ready _ hr
  rw [h, State.effective_word hc.1]
  rfl

theorem exec_mclrw (hr : Ready [base] s) : exec (.mclrw base imm) s =
    afterStore (storeWord (wordAddress (s.reg base) imm) 0 s) := by
  have h : exec (.mclrw base imm) s = _ := hold_ready _ hr
  rw [h, State.effective_word hc.1]
  rfl

theorem exec_xch (hr : Ready [base, r] s) : exec (.xch r base imm) s =
    afterExchange r (.ok (sextByte (s.readByte (byteAddress (s.reg base) imm))))
      (storeByte (byteAddress (s.reg base) imm) (lowByte (s.reg r)) s) := by
  have h : exec (.xch r base imm) s = _ := hold_ready _ hr
  rw [h, State.effective_byte hc.1, hc.1]
  simp only [bind, Except.bind, loadByte_spec hc.1 hc.2]
  rfl

theorem exec_xchw (hr : Ready [base, r] s) : exec (.xchw r base imm) s =
    afterExchange r (loadWord (wordAddress (s.reg base) imm) s)
      (storeWord (wordAddress (s.reg base) imm) (s.reg r) s) := by
  have h : exec (.xchw r base imm) s = _ := hold_ready _ hr
  rw [h, State.effective_word hc.1]
  rfl

theorem exec_mldw (hr : Ready [base] s) : exec (.mldw r base imm) s =
    load r (loadWord (wordAddress (s.reg base) imm) s) s := by
  have h : exec (.mldw r base imm) s = _ := hold_ready _ hr
  rw [h, State.effective_word hc.1]
  rfl

theorem loadWord_even {a : Word} (ha : oddAddress a = false) : loadWord a s = .ok (s.readWord a) := by
  simp [loadWord_spec hc.1 hc.2, ha]

/-- A byte store into the program image has no step (R64). -/
theorem storeByte_image {a : Word} (v : Byte) (ha : s.inImage a = true) : storeByte a v s = .error .storeToText := by
  simp [storeByte_spec hc.1 hc.2, ha]

/-- Nor has a word store at an even address with either byte in the image (R64). -/
theorem storeWord_image {a : Word} (v : Word) (ha : oddAddress a = false)
    (hi : (s.inImage a || s.inImage (a + 1)) = true) : storeWord a v s = .error .storeToText := by
  rw [storeWord_spec hc.1 hc.2, ha, if_neg Bool.false_ne_true, if_pos hi]

/-- A word store at an even address outside the image writes the word (R53, R57). -/
theorem storeWord_even {a : Word} (v : Word) (ha : oddAddress a = false) (h0 : s.inImage a = false)
    (h1 : s.inImage (a + 1) = false) : storeWord a v s = .ok (s.writeWord a v) := by
  rw [storeWord_spec hc.1 hc.2, ha, h0, h1]
  rfl

/-- mstw at an even address outside the image stores the word and advances (R199). -/
theorem exec_mstw_done (hr : Ready [base, r] s) (ha : oddAddress (wordAddress (s.reg base) imm) = false)
    (h0 : s.inImage (wordAddress (s.reg base) imm) = false)
    (h1 : s.inImage (wordAddress (s.reg base) imm + 1) = false) :
    exec (.mstw r base imm) s = .next (s.writeWord (wordAddress (s.reg base) imm) (s.reg r)).advance := by
  rw [exec_mstw hc hr, storeWord_even hc _ ha h0 h1]
  rfl

/-- mldw at an even address, its register neither zr nor pending, starts a load of the word there (R197). -/
theorem exec_mldw_started (hr : Ready [r, base] s) (hz : r ≠ .zr)
    (ha : oddAddress (wordAddress (s.reg base) imm) = false) : exec (.mldw r base imm) s =
      .next (s.startLoad r (s.readWord (wordAddress (s.reg base) imm))).advance := by
  rw [exec_mldw hc (ready_of_subset hr (by simp)), loadWord_even hc ha,
    load_ready _ hz (hr r List.mem_cons_self), State.loadDrawn_spec hc.1]

end

/-! The fetch (R54, R100): the two bytes decode, or are rejected. -/

theorem State.fetched_ok {bytes rest : List Byte} {i : Instr} (hb : s.fetchBytes = .ok bytes)
    (hd : decodeBytes bytes = .ok (i, rest)) : s.fetched = .ok i := by simp [State.fetched, hb, hd]

theorem State.fetched_rejected {bytes : List Byte} {why : Reject} (hb : s.fetchBytes = .ok bytes)
    (hd : decodeBytes bytes = .error why) : s.fetched = .error (rejection why) := by simp [State.fetched, hb, hd]

theorem runInstruction_of_fetched {i : Instr} (h : s.fetched = .ok i) : runInstruction s = exec i s := by
  simp [runInstruction, h]

theorem runInstruction_of_error {why : Refusal} (h : s.fetched = .error why) : runInstruction s = .refused why := by
  simp [runInstruction, h]

/-- The event `run` lets the machine proceed, whatever is pending. -/
theorem step_run (h : s.nextEvent = .run) : step s = proceed s.tick := by simp [step, h]

end Sys2Proof.Machine
end

section
/-! PROOF. The obligations of 20_memory.md. -/

namespace Sys2Proof.Proofs

open Sys2Proof.Machine Sys2Proof.Safety

/-- Settles O48: no byte is listed after reset. -/
theorem resetMemoryIsCanonical : Obligations.ResetMemoryIsCanonical := ⟨reset_memory_wf, rfl⟩

/-- Settles O47, by what every step keeps. -/
theorem stepKeepsMemoryCanonical : Obligations.StepKeepsMemoryCanonical := by
  intro s t hw h
  have hk := step_kept h
  obtain ⟨-, -, -, hcode⟩ := State.fixed_eq_iff.mp hk.fixed
  exact ⟨hk.memory.wf hw, hcode⟩

/-- Settles O49, by what every step keeps: with both parameters at the spec's choice stores are kept from the image. -/
theorem stepNeverChangesTheProgramText : Obligations.StepNeverChangesTheProgramText := by
  intro s t h
  have hk := step_kept h
  obtain ⟨himage, hparams, hplatform, -⟩ := State.fixed_eq_iff.mp hk.fixed
  refine ⟨himage, hparams, hplatform, fun hcoherence hunified a ha => hk.memory.text a ?_⟩
  simp [State.keepsText, hcoherence, hunified, ha]

/-- Settles O51: without a TRAP_ENTRY no trap answers a state, and any other instruction has the memory frame. -/
theorem onlyStoresChangeMemory : Obligations.OnlyStoresChangeMemory := by
  intro i s t a h hw hi he
  cases exec_memoryEnded h with
  | trapped cause h => rw [takeTrap_absent cause he] at h; cases h
  | returned r hr => exact absurd hr hi
  | framed hf => exact State.readByte_congr (hf.mem hw) a

/-- Settles O20: at the spec's choice an effective address is the sum of words, which wraps. -/
theorem effectiveAddressesWrap : Obligations.EffectiveAddressesWrap := fun base imm _ h =>
  ⟨State.effective_byte h base imm, State.effective_word h base imm, byteAddress_toNat base imm,
    wordAddress_toNat base imm, toNat_add_one_lt_of_even⟩

/-- Settles O24: each of the six is its store, which the image refuses; an exchange reads its old value before. -/
theorem storesIntoTheProgramImageAreRefused : Obligations.StoresIntoTheProgramImageAreRefused := by
  intro r base imm s hc hr ea eaw
  have hbase : Ready [base] s := ready_of_subset hr (by simp)
  refine ⟨fun hi => ⟨?mst, ?xch, ?mclr⟩, fun ha hi => ⟨?mstw, ?xchw, ?mclrw⟩⟩
  case mst => rw [Refuses, exec_mst hc hr, storeByte_image hc _ hi]; rfl
  case xch => rw [Refuses, exec_xch hc hr, storeByte_image hc _ hi]; rfl
  case mclr => rw [Refuses, exec_mclr hc hbase, storeByte_image hc _ hi]; rfl
  case mstw => rw [Refuses, exec_mstw hc hr, storeWord_image hc _ ha hi]; rfl
  case xchw => rw [Refuses, exec_xchw hc hr, loadWord_even hc ha, storeWord_image hc _ ha hi]; rfl
  case mclrw => rw [Refuses, exec_mclrw hc hbase, storeWord_image hc _ ha hi]; rfl

/-- Settles O25: the load reads the word the store wrote, since the store leaves the base register as it was. -/
theorem storedWordIsLoadedBack : Obligations.StoredWordIsLoadedBack := by
  intro rs rd base imm s hc hr hz ha h0 h1
  obtain ⟨t, hstore, hct, hrt, hbase, hread⟩ : ∃ t, exec (.mstw rs base imm) s = .next t ∧ AtSpecChoice t ∧
      Ready [rd, base] t ∧ t.reg base = s.reg base ∧ t.readWord (wordAddress (s.reg base) imm) = s.reg rs :=
    ⟨_, exec_mstw_done hc (ready_of_subset hr (by simp)) ha h0 h1, hc,
      ready_of_subset (rs := [rs, rd, base]) hr (by simp), rfl, s.readWord_writeWord _ _⟩
  obtain ⟨u, hload, hawaited⟩ : ∃ u, exec (.mldw rd base imm) t = .next u ∧ u.awaited rd = some (s.reg rs) := by
    refine ⟨_, exec_mldw_started hct hrt hz (by rwa [hbase]), ?_⟩
    simp [State.awaited_startLoad, hz, hbase, hread]
  exact ⟨t, u, hstore, hload, (u.pending_eq_true_iff rd).mpr ⟨_, hawaited⟩, by simp [State.reg_resolve, hawaited],
    by simp [State.pending_eq_false_iff, State.awaited_resolve]⟩

/-- Settles O45: such a step proceeds, and the bytes fetched at the spec's choice are the two at ip. -/
theorem stepRunsTheDecodedInstruction : Obligations.StepRunsTheDecodedInstruction := by
  intro s hc he hevent
  have hrun : step s = runInstruction s.tick := by
    have hproceed : step s = proceed s.tick := by
      rcases hevent with hq | hi
      · exact step_quiet hq
      · exact step_run (State.nextEvent_of_head? hi)
    exact hproceed.trans (proceed_running he)
  have hbytes : s.tick.fetchBytes = .ok [s.readByte s.addr, s.readByte (s.addr + 1)] :=
    State.fetchBytes_spec (s := s.tick) hc.1 hc.2
  refine ⟨fun i hi => ?_, fun why hw => ?_, rfl⟩
  · rw [hrun, runInstruction_of_fetched (State.fetched_ok hbytes hi)]
  · rw [hrun, runInstruction_of_error (State.fetched_rejected hbytes hw)]

end Sys2Proof.Proofs
end

section
/-! PROOF. The encoder and the decoder are inverse to each other (R80 to R93): each field reads back from the word, each
word is built of its fields, and what the decoder answers is split over the opcodes once, in `decode_decoded`. -/

namespace Sys2Proof

variable {w : Word} {i : Instr}

/-! A word of each format is its fields and nothing else (R81 to R88). -/

theorem wordR3_fields (w : Word) : wordR3 (opcode w) (regHi w) (fnField w) (regMid w) (regLo w) = w := by
  simp only [wordR3, opcode, regHi, fnField, regMid, regLo, Reg.toBits_ofBits,
    BitVec.extractLsb'_append_extractLsb'_eq_extractLsb', BitVec.extractLsb'_eq_self]

theorem wordI8_fields (w : Word) : wordI8 (opcode w) (regHi w) (imm8Field w) = w := by
  simp only [wordI8, opcode, regHi, imm8Field, Reg.toBits_ofBits,
    BitVec.extractLsb'_append_extractLsb'_eq_extractLsb', BitVec.extractLsb'_eq_self]

theorem wordCsr_fields (w : Word) : wordCsr (opcode w) (regHi w) (fnField w) (csrField w) = w := by
  simp only [wordCsr, opcode, regHi, fnField, csrField, Reg.toBits_ofBits,
    BitVec.extractLsb'_append_extractLsb'_eq_extractLsb', BitVec.extractLsb'_eq_self]

theorem wordSh_fields (w : Word) : wordSh (opcode w) (regHi w) (selField w) (amtField w) (regLo w) = w := by
  simp only [wordSh, opcode, regHi, selField, amtField, regLo, Reg.toBits_ofBits,
    BitVec.extractLsb'_append_extractLsb'_eq_extractLsb', BitVec.extractLsb'_eq_self]

theorem wordJ11_fields (w : Word) : wordJ11 (opcode w) (imm11Field w) = w := by
  simp only [wordJ11, opcode, imm11Field,
    BitVec.extractLsb'_append_extractLsb'_eq_extractLsb', BitVec.extractLsb'_eq_self]

theorem wordB_fields (w : Word) : wordB (opcode w) (condField w) (imm8Field w) = w := by
  simp only [wordB, opcode, condField, imm8Field,
    BitVec.extractLsb'_append_extractLsb'_eq_extractLsb', BitVec.extractLsb'_eq_self]

theorem wordM_fields (w : Word) : wordM (opcode w) (regHi w) (imm5Field w) (regLo w) = w := by
  simp only [wordM, opcode, regHi, imm5Field, regLo, Reg.toBits_ofBits,
    BitVec.extractLsb'_append_extractLsb'_eq_extractLsb', BitVec.extractLsb'_eq_self]

/-- The two bytes in memory, put together with the higher address first, are the word (R54). -/
theorem highByte_append_lowByte (w : Word) : w.extractLsb' 8 8 ++ w.extractLsb' 0 8 = w := by
  simp only [BitVec.extractLsb'_append_extractLsb'_eq_extractLsb', BitVec.extractLsb'_eq_self]

/-! Which words of a format are the control words 0x0000 and 0x0800 (R92). -/

theorem append_eq_append_iff {m n : Nat} {a c : BitVec m} {b d : BitVec n} : a ++ b = c ++ d ↔ a = c ∧ b = d := by
  refine ⟨fun h => ⟨?_, ?_⟩, fun ⟨hac, hbd⟩ => by rw [hac, hbd]⟩
  · simpa only [BitVec.extractLsb'_append_eq_left] using congrArg (BitVec.extractLsb' n m) h
  · simpa only [BitVec.extractLsb'_append_eq_right] using congrArg (BitVec.extractLsb' 0 n) h

@[simp] theorem Reg.toBits_inj {r q : Reg} : r.toBits = q.toBits ↔ r = q :=
  ⟨fun h => by simpa using congrArg Reg.ofBits h, congrArg Reg.toBits⟩

theorem wordI8_inj {op op' : BitVec 5} {r r' : Reg} {imm imm' : BitVec 8} :
    wordI8 op r imm = wordI8 op' r' imm' ↔ op = op' ∧ r = r' ∧ imm = imm' := by
  rw [wordI8, wordI8, append_eq_append_iff, append_eq_append_iff, Reg.toBits_inj, and_assoc]

@[simp] theorem wordI8_eq_nop_iff {op : BitVec 5} {r : Reg} {imm : BitVec 8} :
    wordI8 op r imm = 0x0800#16 ↔ op = 1#5 ∧ r = .zr ∧ imm = 0#8 :=
  wordI8_inj (op' := 1#5) (r' := .zr) (imm' := 0#8)

theorem wordR3_inj {op op' : BitVec 5} {fn fn' : BitVec 2} {rd rd' rs1 rs1' rs2 rs2' : Reg} :
    wordR3 op rd fn rs1 rs2 = wordR3 op' rd' fn' rs1' rs2' ↔
      op = op' ∧ rd = rd' ∧ fn = fn' ∧ rs1 = rs1' ∧ rs2 = rs2' := by
  rw [wordR3, wordR3, append_eq_append_iff, append_eq_append_iff, append_eq_append_iff, append_eq_append_iff]
  simp only [Reg.toBits_inj, and_assoc]

@[simp] theorem wordR3_eq_bkpt_iff {op : BitVec 5} {fn : BitVec 2} {rd rs1 rs2 : Reg} :
    wordR3 op rd fn rs1 rs2 = 0x0000#16 ↔ op = 0#5 ∧ rd = .zr ∧ fn = 0#2 ∧ rs1 = .zr ∧ rs2 = .zr :=
  wordR3_inj (op' := 0#5) (rd' := .zr) (fn' := 0#2) (rs1' := .zr) (rs2' := .zr)

/-! Well-formedness of the three base instructions some of whose words are control words (R111, R115, R181). -/

theorem Instr.wf_add_iff {rd rs1 rs2 : Reg} :
    (Instr.add rd rs1 rs2).wf = true ↔ encode (.add rd rs1 rs2) ≠ 0x0000 := by
  simp [Instr.wf, encode, or_assoc, imp_iff_not_or]

theorem Instr.wf_addi_iff {rw : Reg} {imm : BitVec 8} :
    (Instr.addi rw imm).wf = true ↔ encode (.addi rw imm) ≠ 0x0800 := by
  simp [Instr.wf, encode, imp_iff_not_or]

theorem Instr.wf_jmpd_iff {rs : Reg} : (Instr.jmpd rs).wf = true ↔ rs ≠ .zr := by simp [Instr.wf]

/-! A pure pseudo-instruction spells its base instruction (R240). -/

theorem Instr.base_base (i : Instr) : i.base.base = i.base := by cases i <;> rfl

theorem encode_base (i : Instr) : encode i.base = encode i := by cases i <;> rfl

theorem Instr.wf_base (h : i.wf = true) : i.base.wf = true := by
  cases i with
  | mov | test => simpa [Instr.wf, Instr.base] using h
  | inc | dec => simp [Instr.wf, Instr.base]
  | _ => exact h

/-! Decoding what was encoded. -/

/-- The word of a well-formed base instruction decodes to it, format by format. -/
theorem decode_encode_of_base (hb : i.base = i) (hw : i.wf = true) : decode (encode i) = .ok i := by
  cases i with
  | add rd rs1 rs2 =>
    have hword := Instr.wf_add_iff.mp hw
    rw [decode, if_neg hword]
    simp [encode, byFn]
  | addi rw imm =>
    have hword := Instr.wf_addi_iff.mp hw
    rw [decode, if_neg hword]
    simp [encode]
  | addc | sub | subb | slt | sltu | szr | ior | and | xor | bsld | bsrd | bsrsd | brrd | reserved01111 =>
    simp [decode, encode, byFn, decodeCsr]
  | csrr | csrw => simp [decode, encode, decodeCsr]
  | bsl | bsr | bsrs | brr => simp [decode, encode, bySel]
  | cmpi | iori | ioriu | andi | andiu | biti | xori | xoriu | lli | lui => simp [decode, encode]
  | jmp | jmpl | jmpr | jmprl | prfi | mld | mldw | mst | mstw | xch | xchw => simp [decode, encode]
  | jmpd rs => simp [decode, encode, decodeJmpd, Instr.wf_jmpd_iff.mp hw]
  | jmpdl => simp [decode, encode, decodeJmpdl]
  | sysc => simp [decode, encode, decodeJmpd]
  | brh cond imm => cases cond <;> simp [decode, encode, decodeBranch, Cond.toBits]
  | reservedBrhCond011 | reservedBrhCond111 => simp [decode, encode, decodeBranch]
  | bkpt | nop | fence | ftlb | rfi | wfi | scf | rscf | reservedB840 | reservedB880 => rfl
  | _ => cases hb

theorem decode_encode (h : i.wf = true) : decode (encode i) = .ok i.base := by
  rw [← encode_base]
  exact decode_encode_of_base i.base_base (Instr.wf_base h)

theorem decodeBytes_wordBytes (h : decode w = .ok i) : decodeBytes (wordBytes w) = .ok (i, []) := by
  simp only [wordBytes, decodeBytes, highByte_append_lowByte, h]

/-! Encoding what was decoded. -/

/-- `i` is a well-formed base instruction and `w` is its word. -/
def Instr.Spells (i : Instr) (w : Word) : Prop := i.wf = true ∧ i.base = i ∧ encode i = w

/-- The flags fields with at most one bit set (R102). -/
theorem and_sub_one_eq_zero_iff (f : BitVec 8) :
    f &&& (f - 1#8) = 0#8 ↔ f ∈ [0x00, 0x01, 0x02, 0x04, 0x08, 0x10, 0x20, 0x40, 0x80] := by
  revert f; decide

/-- All a decoder can answer for a word. -/
inductive Decoded (w : Word) : Except Reject Instr → Prop
  | accepted (i : Instr) (h : i.Spells w) : Decoded w (.ok i)
  | unspecified (hop : opcode w = 0b10110#5 ∨ opcode w = 0b10111#5) (hr : regHi w ≠ .zr)
      (hf : imm8Field w ≠ 0#8) : Decoded w (.error .unspecifiedJumpFlags)
  | reserved (hop : opcode w = 0b10111#5) (hr : regHi w = .zr)
      (hf : imm8Field w &&& (imm8Field w - 1#8) ≠ 0#8) : Decoded w (.error .reservedControlFlag)

theorem Decoded.of_encode (hw : i.wf = true) (hb : i.base = i) (he : encode i = w) : Decoded w (.ok i) :=
  .accepted i ⟨hw, hb, he⟩

/-! The word of fields that were read, with some of them known. -/

theorem opcode_eq {n : Nat} (h : (opcode w).toNat = n) : opcode w = BitVec.ofNat 5 n := by
  rw [← h, BitVec.ofNat_toNat, BitVec.setWidth_eq]

theorem wordR3_eq {op : BitVec 5} {fn : BitVec 2} (hop : opcode w = op) (hfn : fnField w = fn) :
    wordR3 op (regHi w) fn (regMid w) (regLo w) = w := by rw [← hop, ← hfn, wordR3_fields]

theorem wordI8_eq {op : BitVec 5} {r : Reg} {imm : BitVec 8} (hop : opcode w = op) (hr : regHi w = r)
    (himm : imm8Field w = imm) : wordI8 op r imm = w := by rw [← hop, ← hr, ← himm, wordI8_fields]

theorem wordCsr_eq {op : BitVec 5} {fn : BitVec 2} (hop : opcode w = op) (hfn : fnField w = fn) :
    wordCsr op (regHi w) fn (csrField w) = w := by rw [← hop, ← hfn, wordCsr_fields]

theorem wordSh_eq {op : BitVec 5} {sel : BitVec 1} (hop : opcode w = op) (hsel : selField w = sel) :
    wordSh op (regHi w) sel (amtField w) (regLo w) = w := by rw [← hop, ← hsel, wordSh_fields]

theorem wordJ11_eq {op : BitVec 5} (hop : opcode w = op) : wordJ11 op (imm11Field w) = w := by
  rw [← hop, wordJ11_fields]

theorem wordB_eq {op : BitVec 5} {cond : BitVec 3} (hop : opcode w = op) (hcond : condField w = cond) :
    wordB op cond (imm8Field w) = w := by rw [← hop, ← hcond, wordB_fields]

theorem wordM_eq {op : BitVec 5} (hop : opcode w = op) : wordM op (regHi w) (imm5Field w) (regLo w) = w := by
  rw [← hop, wordM_fields]

/-! What is answered for each opcode. The last arm of a match of the decoder knows of its field only the values it does
not have, and `bv_omega` finds the one that is left. -/

theorem spells_byFn {op : BitVec 5} {i0 i1 i2 i3 : Reg → Reg → Reg → Instr} (hop : opcode w = op)
    (h0 : ∀ a b c, wordR3 op a 0b00#2 b c = w → (i0 a b c).Spells w)
    (h1 : ∀ a b c, wordR3 op a 0b01#2 b c = w → (i1 a b c).Spells w)
    (h2 : ∀ a b c, wordR3 op a 0b10#2 b c = w → (i2 a b c).Spells w)
    (h3 : ∀ a b c, wordR3 op a 0b11#2 b c = w → (i3 a b c).Spells w) : (byFn w i0 i1 i2 i3).Spells w := by
  unfold byFn
  split
  case h_1 hfn => exact h0 _ _ _ (wordR3_eq hop (BitVec.eq_of_toNat_eq hfn))
  case h_2 hfn => exact h1 _ _ _ (wordR3_eq hop (BitVec.eq_of_toNat_eq hfn))
  case h_3 hfn => exact h2 _ _ _ (wordR3_eq hop (BitVec.eq_of_toNat_eq hfn))
  case h_4 =>
    simp only [imp_false] at *
    exact h3 _ _ _ (wordR3_eq hop (by bv_omega))

theorem spells_bySel {op : BitVec 5} {i0 i1 : Reg → Reg → BitVec 4 → Instr} (hop : opcode w = op)
    (h0 : ∀ a b n, wordSh op a 0#1 n b = w → (i0 a b n).Spells w)
    (h1 : ∀ a b n, wordSh op a 1#1 n b = w → (i1 a b n).Spells w) : (bySel w i0 i1).Spells w := by
  unfold bySel
  split
  case h_1 hsel => exact h0 _ _ _ (wordSh_eq hop (BitVec.eq_of_toNat_eq hsel))
  case h_2 =>
    simp only [imp_false] at *
    exact h1 _ _ _ (wordSh_eq hop (by bv_omega))

/-- The two formats of opcode 00011 (R83). -/
theorem spells_decodeCsr (hop : opcode w = 0b00011#5) : (decodeCsr w).Spells w := by
  unfold decodeCsr
  split
  case h_1 hfn => exact ⟨rfl, rfl, wordCsr_eq hop (BitVec.eq_of_toNat_eq hfn)⟩
  case h_2 hfn => exact ⟨rfl, rfl, wordCsr_eq hop (BitVec.eq_of_toNat_eq hfn)⟩
  case h_3 hfn => exact ⟨rfl, rfl, wordR3_eq hop (BitVec.eq_of_toNat_eq hfn)⟩
  case h_4 =>
    simp only [imp_false] at *
    exact ⟨rfl, rfl, wordR3_eq hop (by bv_omega)⟩

/-- The six conditions and the two reserved ones (R35, R103). -/
theorem spells_decodeBranch (hop : opcode w = 0b11000#5) : (decodeBranch w).Spells w := by
  unfold decodeBranch
  split
  case h_8 =>
    simp only [imp_false] at *
    exact ⟨rfl, rfl, wordB_eq hop (by bv_omega)⟩
  all_goals exact ⟨rfl, rfl, wordB_eq hop (BitVec.eq_of_toNat_eq ‹_›)⟩

/-- sysc, jmpd, and the words of R104. -/
theorem decodeJmpd_decoded (hop : opcode w = 0b10110#5) : Decoded w (decodeJmpd w) := by
  unfold decodeJmpd
  split
  case isTrue hr => exact .of_encode rfl rfl (wordI8_eq hop hr rfl)
  case isFalse hr =>
    split
    case isTrue hf => exact .of_encode (Instr.wf_jmpd_iff.mpr hr) rfl (wordI8_eq hop rfl hf)
    case isFalse hf => exact .unspecified (.inl hop) hr hf

/-- jmpdl, the control encodings, and the words of R102 and R104. -/
theorem decodeJmpdl_decoded (hop : opcode w = 0b10111#5) : Decoded w (decodeJmpdl w) := by
  unfold decodeJmpdl
  split
  case isTrue hf => exact .of_encode rfl rfl (wordI8_eq hop rfl hf)
  case isFalse hf =>
    split
    case isTrue hr => exact .unspecified (.inr hop) hr hf
    case isFalse hr =>
      have hzr : regHi w = .zr := not_not.mp hr
      split
      case h_9 =>
        refine .reserved hop hzr fun h => ?_
        have hmem := (and_sub_one_eq_zero_iff _).mp h
        simp only [List.mem_cons, List.not_mem_nil, ← BitVec.toNat_inj] at hmem hf
        simp_all
      all_goals exact .of_encode rfl rfl (wordI8_eq hop hzr (BitVec.eq_of_toNat_eq ‹_›))

/-- Every answer of the decoder, opcode by opcode: `h_n` is the arm of opcode n - 1. -/
theorem decode_decoded (w : Word) : Decoded w (decode w) := by
  unfold decode
  split
  case h_1 hop =>
    split
    case isTrue hw => exact .of_encode rfl rfl hw.symm
    case isFalse hw =>
      exact .accepted _ (spells_byFn (opcode_eq hop)
        (fun _ _ _ h => ⟨Instr.wf_add_iff.mpr fun h0 => hw (h.symm.trans h0), rfl, h⟩)
        (fun _ _ _ h => ⟨rfl, rfl, h⟩) (fun _ _ _ h => ⟨rfl, rfl, h⟩) fun _ _ _ h => ⟨rfl, rfl, h⟩)
  case h_2 hop =>
    split
    case isTrue hw => exact .of_encode rfl rfl hw.symm
    case isFalse hw =>
      have haddi : encode (.addi (regHi w) (imm8Field w)) = w := wordI8_eq (opcode_eq hop) rfl rfl
      exact .of_encode (Instr.wf_addi_iff.mpr fun h0 => hw (haddi.symm.trans h0)) rfl haddi
  case h_4 hop => exact .accepted _ (spells_decodeCsr (opcode_eq hop))
  case h_23 hop => exact decodeJmpd_decoded (opcode_eq hop)
  case h_24 hop => exact decodeJmpdl_decoded (opcode_eq hop)
  case h_25 hop => exact .accepted _ (spells_decodeBranch (opcode_eq hop))
  case h_3 hop | h_6 hop | h_7 hop | h_8 hop | h_9 hop | h_10 hop | h_11 hop | h_12 hop | h_17 hop | h_18 hop =>
    exact .of_encode rfl rfl (wordI8_eq (opcode_eq hop) rfl rfl)
  case h_5 hop | h_15 hop =>
    exact .accepted _ (spells_byFn (opcode_eq hop) (fun _ _ _ h => ⟨rfl, rfl, h⟩)
      (fun _ _ _ h => ⟨rfl, rfl, h⟩) (fun _ _ _ h => ⟨rfl, rfl, h⟩) fun _ _ _ h => ⟨rfl, rfl, h⟩)
  case h_13 hop | h_14 hop =>
    exact .accepted _ (spells_bySel (opcode_eq hop) (fun _ _ _ h => ⟨rfl, rfl, h⟩) fun _ _ _ h => ⟨rfl, rfl, h⟩)
  case h_16 hop => exact .of_encode rfl rfl (wordR3_eq (opcode_eq hop) rfl)
  case h_19 hop | h_20 hop | h_21 hop | h_22 hop | h_26 hop =>
    exact .of_encode rfl rfl (wordJ11_eq (opcode_eq hop))
  case h_27 hop | h_28 hop | h_29 hop | h_30 hop | h_31 hop =>
    exact .of_encode rfl rfl (wordM_eq (opcode_eq hop))
  case h_32 =>
    simp only [imp_false] at *
    exact .of_encode rfl rfl (wordM_eq (by bv_omega))

theorem decoded_of_eq {answer : Except Reject Instr} (h : decode w = answer) : Decoded w answer :=
  h ▸ decode_decoded w

/-- The decoder answers an instruction exactly for its word. -/
theorem decode_eq_ok_iff : decode w = .ok i ↔ i.Spells w := by
  constructor
  · intro h
    cases decoded_of_eq h with
    | accepted _ hs => exact hs
  · rintro ⟨hw, hb, rfl⟩
    exact decode_encode_of_base hb hw

/-! Which words are rejected. -/

theorem decode_eq_unspecified_iff : decode w = .error .unspecifiedJumpFlags ↔
    (opcode w = 0b10110#5 ∨ opcode w = 0b10111#5) ∧ regHi w ≠ .zr ∧ imm8Field w ≠ 0#8 := by
  constructor
  · intro h
    cases decoded_of_eq h with
    | unspecified hop hr hf => exact ⟨hop, hr, hf⟩
  · rintro ⟨hop | hop, hr, hf⟩
    · simp [decode, hop, decodeJmpd, hr, hf]
    · simp [decode, hop, decodeJmpdl, hr, hf]

theorem decode_eq_reserved_iff : decode w = .error .reservedControlFlag ↔
    opcode w = 0b10111#5 ∧ regHi w = .zr ∧ imm8Field w &&& (imm8Field w - 1#8) ≠ 0#8 := by
  constructor
  · intro h
    cases decoded_of_eq h with
    | reserved hop hr hf => exact ⟨hop, hr, hf⟩
  · rintro ⟨hop, hr, hf⟩
    have hf0 : imm8Field w ≠ 0 := by
      intro h
      simp [h] at hf
    have hd : decode w = decodeJmpdl w := by simp [decode, hop]
    rw [hd, decodeJmpdl, if_neg hf0, if_neg (not_not.mpr hr)]
    split
    case h_9 => rfl
    all_goals exact absurd ((and_sub_one_eq_zero_iff _).mpr (by simp [← BitVec.toNat_inj, *])) hf

theorem decode_ne_truncated (w : Word) : decode w ≠ .error .truncated := fun h => nomatch decoded_of_eq h

/-! The masks of R102 and R104, on the fields of format I8. -/

/-- A mask keeps of each field what the mask's own field keeps. -/
theorem and_fields (w : Word) (mop : BitVec 5) (mr : BitVec 3) (mf : BitVec 8) :
    w &&& (mop ++ mr ++ mf) = (opcode w &&& mop) ++ ((regHi w).toBits &&& mr) ++ (imm8Field w &&& mf) := by
  conv_lhs => rw [← wordI8_fields w, wordI8, BitVec.and_append, BitVec.and_append]

theorem and_fields_eq_iff (w : Word) (mop op : BitVec 5) (mr r : BitVec 3) (mf f : BitVec 8) :
    w &&& (mop ++ mr ++ mf) = op ++ r ++ f ↔
      opcode w &&& mop = op ∧ (regHi w).toBits &&& mr = r ∧ imm8Field w &&& mf = f := by
  rw [and_fields, append_eq_append_iff, append_eq_append_iff, and_assoc]

theorem and_F000_eq_B000_iff (w : Word) : w &&& 0xF000 = 0xB000 ↔ opcode w = 0b10110#5 ∨ opcode w = 0b10111#5 := by
  have hop : ∀ op : BitVec 5, op &&& 0b11110#5 = 0b10110#5 ↔ op = 0b10110#5 ∨ op = 0b10111#5 := by decide
  refine (and_fields_eq_iff w 0b11110#5 0b10110#5 0#3 0#3 0x00#8 0x00#8).trans ?_
  simp [hop]

theorem and_0700_eq_zero_iff (w : Word) : w &&& 0x0700 = 0 ↔ regHi w = .zr := by
  refine (and_fields_eq_iff w 0#5 0#5 (.allOnes 3) 0#3 0x00#8 0x00#8).trans ?_
  cases regHi w <;> simp [Reg.toBits]

theorem and_FF00_eq_B800_iff (w : Word) : w &&& 0xFF00 = 0xB800 ↔ opcode w = 0b10111#5 ∧ regHi w = .zr := by
  refine (and_fields_eq_iff w (.allOnes 5) 0b10111#5 (.allOnes 3) 0#3 0x00#8 0x00#8).trans ?_
  rw [BitVec.and_allOnes, BitVec.and_allOnes]
  cases regHi w <;> simp [Reg.toBits]

theorem and_00FF (w : Word) : w &&& 0x00FF = (imm8Field w).setWidth 16 := by
  refine (and_fields w 0#5 0#3 (.allOnes 8)).trans ?_
  rw [BitVec.and_allOnes]
  simp [BitVec.setWidth_eq_append]

theorem and_00FF_eq_zero_iff (w : Word) : w &&& 0x00FF = 0 ↔ imm8Field w = 0#8 := by
  refine (and_fields_eq_iff w 0#5 0#5 0#3 0#3 (.allOnes 8) 0x00#8).trans ?_
  rw [BitVec.and_allOnes]
  simp

theorem setWidth_and_sub_one_eq_zero_iff (f : BitVec 8) :
    f.setWidth 16 &&& (f.setWidth 16 - 1) = (0 : Word) ↔ f &&& (f - 1#8) = 0#8 := by
  by_cases hf : f = 0#8
  · simp [hf]
  · have hsub : f.setWidth 16 - 1 = (f - 1#8).setWidth 16 := by bv_omega
    rw [hsub, ← BitVec.setWidth_and]
    bv_omega

end Sys2Proof
end

section
/-! PROOF. The advance to the next instruction. -/

namespace Sys2Proof.Machine

open Sys2Proof.Safety

theorem onlyAdvanced_advance (s : State) : OnlyAdvanced s s.advance :=
  ⟨s.addr_advance, s.advance_flags, fun q _ => s.reg_advance q, fun q _ => s.awaited_advance q,
    fun a _ => State.readByte_congr s.advance_mem a,
    ⟨s.advance_pen, s.advance_ira, s.advance_savedFlags, s.advance_masked, s.advance_entering, s.advance_unfenced,
      State.csrWord_congr s.advance_csrs⟩,
    ⟨s.advance_tlb, s.advance_flushPending⟩,
    ⟨s.advance_params, s.advance_platform, s.advance_image, s.advance_code, s.advance_inputs, s.advance_clock⟩⟩

/-- A load to zr advances, whatever its access to memory would answer (R65, R105). -/
theorem load_zr (m : Except Refusal Word) (s : State) : load .zr m s = .next s.advance := if_pos rfl

end Sys2Proof.Machine
end

section
/-! PROOF. The obligations of 30_encoding.md. -/

namespace Sys2Proof.Proofs

open Sys2Proof.Machine Sys2Proof.Safety Sys2Proof.Laws

/-- Settles O42: the two bytes are the word, and the word of a well-formed instruction decodes to its base. -/
theorem decodeInvertsEncode : Obligations.DecodeInvertsEncode := fun _ hw => decodeBytes_wordBytes (decode_encode hw)

/-- Settles O43, by what the decoder answers for each opcode. -/
theorem everyAcceptedWordIsEncodedBack : Obligations.EveryAcceptedWordIsEncodedBack := fun _ _ h =>
  decode_eq_ok_iff.mp h

/-- Settles O41: the masks select the opcode, the register and the flags field that the decoder looks at. -/
theorem rejectedWordsAreExactlyTheUnassignedFlags : Obligations.RejectedWordsAreExactlyTheUnassignedFlags := by
  intro w
  refine ⟨?unspecified, ?reserved, decode_ne_truncated w⟩
  case unspecified =>
    rw [decode_eq_unspecified_iff, and_F000_eq_B000_iff, ne_eq (w &&& 0x0700), and_0700_eq_zero_iff,
      ne_eq (w &&& 0x00FF), and_00FF_eq_zero_iff]
  case reserved =>
    rw [decode_eq_reserved_iff, and_FF00_eq_B800_iff, and_00FF, ne_eq, ne_eq, setWidth_and_sub_one_eq_zero_iff,
      and_assoc]

/-- Settles O18: each meaning is the advance; the load to zr answers before it looks at memory (R65). -/
theorem hintsAndNopOnlyAdvance : Obligations.HintsAndNopOnlyAdvance := by
  intro imm base off s
  have hadvances {i : Instr} (h : exec i s = .next s.advance) : Answers i s (OnlyAdvanced s) :=
    ⟨_, h, onlyAdvanced_advance s⟩
  exact ⟨hadvances rfl, TableRow.prfi imm, hadvances rfl, wordM_row_FF00 _ _ _ _, wordM_row_FF00 _ _ _ _, fun hr =>
    ⟨hadvances ((hold_ready _ hr).trans (load_zr _ s)), hadvances ((hold_ready _ hr).trans (load_zr _ s))⟩⟩

/-- Settles O40: the words decode by O42's argument, and the meaning of a reserved row is its refusal. -/
theorem reservedRowsHaveNoStep : Obligations.ReservedRowsHaveNoStep := fun rd fn rs1 rs2 _ _ =>
  ⟨decode_encode rfl, TableRow.reserved01111 rd fn rs1 rs2, rfl, decode_encode (i := .reservedB840) rfl, rfl,
    decode_encode (i := .reservedB880) rfl, rfl, rfl, rfl⟩

/-- Settles O44: each word is the one its instruction is encoded to. -/
theorem specWordsDecodeToTheirInstructions : Obligations.SpecWordsDecodeToTheirInstructions := by
  unfold Obligations.SpecWordsDecodeToTheirInstructions
  simp only [decode_eq_ok_iff]
  and_intros <;> rfl

end Sys2Proof.Proofs
end

section
/-! PROOF. A register write with its flags, as the shapes of Safety.lean say it: the frame once for every class of
flags, and the rules of the classes arithmetic and FU (R33) from the one meaning that their instructions share. -/

namespace Sys2Proof.Machine

open Sys2Proof.Safety

variable {i : Instr} {rs : List Reg} {rd : Reg} {s : State} {flags : State → State} {c sg z : Option Bool}

/-- What a completed write leaves: the value, the flags of the update, the next address, and all else as it was. -/
theorem registerWritten_advance (rd : Reg) (v : Word) (hf : OnlyFlags flags s) (hfl : FlagsAre c sg z (flags s)) :
    RegisterWritten rd v c sg z s ((flags s).setReg rd v).advance := by
  obtain ⟨f, n, hf⟩ := hf
  obtain ⟨haddr, -, -, hloads, hrest⟩ := onlyAdvanced_advance ((flags s).setReg rd v)
  rw [hf] at haddr hloads hrest hfl ⊢
  refine ⟨?_, hfl, haddr, fun q hq => ?_, hloads, hrest⟩
  · rw [State.reg_advance, State.reg_setReg]
    by_cases hz : rd = .zr <;> simp [hz]
  · rw [State.reg_advance, State.reg_setReg, if_neg fun h => hq (List.mem_singleton.mpr h.1)]
    rfl

section
variable {v : Word} (hi : exec i s = hold rs s (writeBack rd v flags s)) (hf : OnlyFlags flags s)
  (hfl : FlagsAre c sg z (flags s))
include hi hf hfl

/-- An instruction that writes back has the whole rule of a written register (R27, R28). -/
theorem writesRegister_of_exec : WritesRegister i rs rd v c sg z s := by
  intro hr
  rw [Raises, Answers, hi, hold_ready _ hr]
  exact ⟨writeBack_pending v flags, fun hp => ⟨_, writeBack_ready v flags hp, registerWritten_advance rd v hf hfl⟩⟩

/-- One that reads its destination first, or writes zr, finds no pending register (R28). -/
theorem completesWith_of_exec (hd : rd = .zr ∨ rd ∈ rs) : CompletesWith i rs rd v c sg z s := by
  intro hr
  have hp : s.pending rd = false := hd.elim (fun h => by rw [h, s.pending_zr]) (hr rd)
  obtain ⟨-, hdone⟩ := writesRegister_of_exec hi hf hfl hr
  exact hdone hp

end

/-- At the spec's choice s is bit 15 of the result and z says that it is 0 (R32). -/
theorem flagsAre_arithFlags (h : s.params = Params.spec) (t : Sum) :
    FlagsAre (some t.carry) (some t.value.msb) (some (decide (t.value = 0))) (arithFlags t s) := by
  rw [FlagsAre, arithFlags_flags, h, Sum.sign_spec]
  simp [zeroOf, beq_eq_decide]

section
variable {t : Sum} {v : Word} {carry : Bool} (h : s.params = Params.spec)
  (hi : exec i s = hold rs s (writeBack rd t.value (arithFlags t) s)) (hv : t.value = v) (hc : t.carry = carry)
include h hi hv hc

theorem arithmeticRule_of_exec : ArithmeticRule i rs rd v carry s := by
  subst hv hc
  exact writesRegister_of_exec hi (onlyFlags_arithFlags t) (flagsAre_arithFlags h t)

theorem arithmeticUpdate_of_exec (hd : rd = .zr ∨ rd ∈ rs) : ArithmeticUpdate i rs rd v carry s := by
  subst hv hc
  exact completesWith_of_exec hi (onlyFlags_arithFlags t) (flagsAre_arithFlags h t) hd

end

theorem freeFlagsRule_of_exec {v w : Word} (hi : exec i s = hold rs s (writeBack rd v (freeFlags v) s)) (hv : v = w) :
    FreeFlagsRule i rs rd w s := by
  subst hv
  exact writesRegister_of_exec hi (onlyFlags_freeFlags v) ⟨nofun, nofun, nofun⟩

/-! The sums and differences without a carry in, and the comparisons. -/

theorem addWithCarry_false_value (a b : Word) : (addWithCarry a b false).value = a + b := by
  simp [addWithCarry_value]

theorem addWithCarry_false_carry (a b : Word) :
    (addWithCarry a b false).carry = decide (2 ^ 16 ≤ a.toNat + b.toNat) := addWithCarry_carry a b false

theorem subWithCarry_true_value (p : Params) (a b : Word) : (subWithCarry p a b true).value = a - b := by
  simp [subWithCarry_value]

theorem subWithCarry_true_carry {p : Params} (h : p.subCarryNotBorrow = true) (a b : Word) :
    (subWithCarry p a b true).carry = decide (b.toNat ≤ a.toNat) := subWithCarry_carry h a b true

theorem signedLess_spec (a b : Word) : signedLess Params.spec a b = decide (a.toInt < b.toInt) := rfl

theorem boolWord_decide (p : Prop) [Decidable p] : boolWord (decide p) = if p then 1 else 0 := by simp [boolWord]

/-- SUB_CARRY_NOT_BORROW is true at the spec's choice (D8). -/
theorem subCarryNotBorrow_spec (h : s.params = Params.spec) : s.params.subCarryNotBorrow = true := by rw [h]; rfl

/-! Two instructions in a row, the second with the carry of the first (R120). -/

/-- With nothing pending an arithmetic instruction completes, and nothing is pending after it. -/
theorem exec_of_arithmeticRule {v : Word} {carry : Bool} (hi : ArithmeticRule i rs rd v carry s)
    (hn : s.anyPending = false) (hz : rd ≠ .zr) :
    ∃ t, exec i s = .next t ∧ t.reg rd = v ∧ t.flags.c = carry ∧ RegsSameBut [rd] s t ∧ t.anyPending = false ∧
      t.params = s.params := by
  have hready : ∀ q, s.pending q = false := s.anyPending_eq_false_iff.mp hn
  obtain ⟨-, hdone⟩ := hi fun q _ => hready q
  obtain ⟨t, ht, hv, ⟨hc, -, -⟩, -, hregs, hloads, -, -, -, hparams, -⟩ := hdone (hready rd)
  refine ⟨t, ht, by rw [hv, if_neg hz], hc _ rfl, hregs, t.anyPending_eq_false_iff.mpr fun q => ?_, hparams⟩
  rw [State.pending_eq_false_iff, hloads q List.not_mem_nil, ← State.pending_eq_false_iff]
  exact hready q

/-- The low halves by `i`, which computes `low`, and then the high halves by `j`, which computes `high` of its sources
and the carry: `j` reads its sources as they were before `i`, and the carry that `i` left. -/
theorem exec_low_then_high {j : Instr} {lo hi h1 h2 : Reg} {low : Sum} {high : Word → Word → Bool → Sum}
    (h : s.params = Params.spec) (hn : s.anyPending = false) (hlo : lo ≠ .zr) (hhi : hi ≠ .zr) (hne : hi ≠ lo)
    (hh1 : lo ≠ h1) (hh2 : lo ≠ h2) (hlow : ArithmeticRule i rs lo low.value low.carry s)
    (hhigh : ∀ {t : State}, t.params = Params.spec → ArithmeticRule j [h1, h2] hi
      (high (t.reg h1) (t.reg h2) t.flags.c).value (high (t.reg h1) (t.reg h2) t.flags.c).carry t) :
    ∃ t u, exec i s = .next t ∧ exec j t = .next u ∧ u.reg hi = (high (s.reg h1) (s.reg h2) low.carry).value ∧
      u.reg lo = low.value ∧ u.flags.c = (high (s.reg h1) (s.reg h2) low.carry).carry := by
  obtain ⟨t, ht, hvt, hct, hregs, hnt, hpt⟩ := exec_of_arithmeticRule hlow hn hlo
  obtain ⟨u, hu, hvu, hcu, hregs', -, -⟩ := exec_of_arithmeticRule (hhigh (hpt.trans h)) hnt hhi
  have hsource {q : Reg} (hq : lo ≠ q) : t.reg q = s.reg q := hregs q (by simpa using hq.symm)
  rw [hsource hh1, hsource hh2, hct] at hvu hcu
  exact ⟨t, u, ht, hu, hvu, (hregs' lo (by simpa using hne.symm)).trans hvt, hcu⟩

/-- Two words side by side as one number, the first the high half (R120). -/
theorem toNat_append_words (a b : Word) : (a ++ b : BitVec 32).toNat = a.toNat * 2 ^ 16 + b.toNat := by
  rw [BitVec.toNat_append, ← Nat.shiftLeft_add_eq_or_of_lt b.isLt, Nat.shiftLeft_eq]

/-! The carry rule on two words: the carry out of the low halves goes into the high halves (R34, R120). -/

section
variable (h1 l1 h2 l2 : Word) {p : Params}

theorem addWithCarry_append_value :
    ((addWithCarry h1 h2 (addWithCarry l1 l2 false).carry).value ++ (addWithCarry l1 l2 false).value : BitVec 32) =
      (h1 ++ l1) + (h2 ++ l2) := by
  apply BitVec.eq_of_toNat_eq
  rw [BitVec.toNat_add, addWithCarry_value, addWithCarry_false_value, addWithCarry_false_carry]
  simp only [toNat_append_words, BitVec.toNat_add, decide_eq_true_eq]
  split <;> simp <;> omega

theorem addWithCarry_append_carry : (addWithCarry h1 h2 (addWithCarry l1 l2 false).carry).carry =
    decide (2 ^ 32 ≤ (h1 ++ l1 : BitVec 32).toNat + (h2 ++ l2 : BitVec 32).toNat) := by
  have hl1 := l1.isLt
  have hl2 := l2.isLt
  rw [addWithCarry_carry, addWithCarry_false_carry]
  simp only [toNat_append_words, decide_eq_true_eq, decide_eq_decide]
  split <;> omega

section
variable (hp : p.subCarryNotBorrow = true)
include hp

theorem subWithCarry_append_value :
    ((subWithCarry p h1 h2 (subWithCarry p l1 l2 true).carry).value ++ (subWithCarry p l1 l2 true).value : BitVec 32) =
      (h1 ++ l1) - (h2 ++ l2) := by
  apply BitVec.eq_of_toNat_eq
  rw [BitVec.toNat_sub, subWithCarry_value, subWithCarry_true_value, subWithCarry_true_carry hp]
  simp only [toNat_append_words, BitVec.toNat_sub, decide_eq_true_eq]
  split <;> simp <;> omega

theorem subWithCarry_append_carry : (subWithCarry p h1 h2 (subWithCarry p l1 l2 true).carry).carry =
    decide ((h2 ++ l2 : BitVec 32).toNat ≤ (h1 ++ l1 : BitVec 32).toNat) := by
  have hl1 := l1.isLt
  have hl2 := l2.isLt
  rw [subWithCarry_carry hp, subWithCarry_true_carry hp]
  simp only [toNat_append_words, decide_eq_true_eq, decide_eq_decide]
  split <;> omega

end
end

end Sys2Proof.Machine
end

section
/-! PROOF. The obligations of 40_arithmetic.md. -/

namespace Sys2Proof.Proofs

open Sys2Proof.Machine Sys2Proof.Safety Sys2Proof.Laws

/-- Settles O2: each is one use of the carry rule, add with no carry in and addc with flag c. -/
theorem addAndAddcSumWithCarryOut : Obligations.AddAndAddcSumWithCarryOut := by
  intro rd rs1 rs2 s h
  refine ⟨?add, TableRow.add rd rs1 rs2, rfl, ?addc, TableRow.addc rd rs1 rs2⟩
  case add => exact arithmeticRule_of_exec h rfl (addWithCarry_false_value ..) (addWithCarry_false_carry ..)
  case addc => exact arithmeticRule_of_exec h rfl (addWithCarry_value ..) (addWithCarry_carry ..)

/-- Settles O3: the same for the two subtractions, whose carry is no borrow at the spec's choice (D8). -/
theorem subAndSubbLeaveCarryForNoBorrow : Obligations.SubAndSubbLeaveCarryForNoBorrow := by
  intro rd rs1 rs2 s h
  have hp := subCarryNotBorrow_spec h
  refine ⟨?sub, TableRow.sub rd rs1 rs2, ?subb, TableRow.subb rd rs1 rs2⟩
  case sub => exact arithmeticRule_of_exec h rfl (subWithCarry_true_value ..) (subWithCarry_true_carry hp ..)
  case subb => exact arithmeticRule_of_exec h rfl (subWithCarry_value ..) (subWithCarry_carry hp ..)

/-- Settles O4: addi reads the register it writes and cmpi writes zr, so neither can fault. -/
theorem addiAndCmpiUseTheSignExtendedImmediate : Obligations.AddiAndCmpiUseTheSignExtendedImmediate := by
  intro r imm s h
  rw [← sext8_eq_ofInt]
  refine ⟨?addi, TableRow.addi r imm, rfl, ?cmpi, TableRow.cmpi r imm⟩
  case addi =>
    exact arithmeticUpdate_of_exec h rfl (addWithCarry_false_value ..) (addWithCarry_false_carry ..)
      (.inr (List.mem_singleton_self r))
  case cmpi =>
    exact arithmeticUpdate_of_exec h rfl (subWithCarry_true_value ..)
      (subWithCarry_true_carry (subCarryNotBorrow_spec h) ..) (.inl rfl)

/-- Settles O5: the comparison of slt is exact at the spec's choice (D14). -/
theorem sltAndSltuCompareExactly : Obligations.SltAndSltuCompareExactly := by
  intro rd rs1 rs2 s h
  refine ⟨freeFlagsRule_of_exec rfl ?slt, TableRow.slt rd rs1 rs2, freeFlagsRule_of_exec rfl (boolWord_decide _),
    TableRow.sltu rd rs1 rs2⟩
  case slt => rw [h, signedLess_spec, boolWord_decide]

/-- Settles O6: the second instruction reads its own sources and the carry of the first, and with that carry between
them the two halves are the 32-bit result. -/
theorem twoWordAdditionAndSubtractionAreExact : Obligations.TwoWordAdditionAndSubtractionAreExact := by
  intro lo hi l1 l2 h1 h2 s h hn hlo hhi hne hh1 hh2
  constructor
  · obtain ⟨t, u, ht, hu, hhigh, hlow, hc⟩ := exec_low_then_high h hn hlo hhi hne hh1 hh2
      (low := addWithCarry (s.reg l1) (s.reg l2) false) (arithmeticRule_of_exec (i := .add lo l1 l2) h rfl rfl rfl)
      (high := addWithCarry) fun ht => arithmeticRule_of_exec (i := .addc hi h1 h2) ht rfl rfl rfl
    exact ⟨t, u, ht, hu, by rw [hhigh, hlow, addWithCarry_append_value], hc.trans (addWithCarry_append_carry ..)⟩
  · have hp : Params.spec.subCarryNotBorrow = true := rfl
    obtain ⟨t, u, ht, hu, hhigh, hlow, hc⟩ := exec_low_then_high h hn hlo hhi hne hh1 hh2
      (low := subWithCarry Params.spec (s.reg l1) (s.reg l2) true)
      (arithmeticRule_of_exec (i := .sub lo l1 l2) h rfl (by rw [h]) (by rw [h])) (high := subWithCarry Params.spec)
      fun ht => arithmeticRule_of_exec (i := .subb hi h1 h2) ht rfl (by rw [ht]) (by rw [ht])
    exact ⟨t, u, ht, hu, by rw [hhigh, hlow, subWithCarry_append_value _ _ _ _ hp],
      hc.trans (subWithCarry_append_carry _ _ _ _ hp)⟩

end Sys2Proof.Proofs
end

section
/-! PROOF. The rule of the logical class (R33) from the one meaning that its instructions share, and what a write to
zr and the bits of an extended immediate say. -/

namespace Sys2Proof.Machine

open Sys2Proof.Safety

variable {i : Instr} {rs : List Reg} {rd : Reg} {v : Word} {s t : State} {c sg z : Option Bool}

theorem signOf_eq_msb (v : Word) : signOf v = v.msb := by simp [signOf, BitVec.msb_eq_getLsbD_last]

/-- After a logical instruction s and z are of the result, and c is `any` (R130). -/
theorem flagsAre_logicFlags (v : Word) (s : State) :
    FlagsAre none (some v.msb) (some (decide (v = 0))) (logicFlags v s) := by
  simp [FlagsAre, signOf_eq_msb, zeroOf, beq_eq_decide]

theorem logicalRule_of_exec (hi : exec i s = hold rs s (writeBack rd v (logicFlags v) s)) :
    LogicalRule i rs rd v s :=
  writesRegister_of_exec hi (onlyFlags_logicFlags v) (flagsAre_logicFlags v s)

theorem logicalUpdate_of_exec (hi : exec i s = hold rs s (writeBack rd v (logicFlags v) s))
    (hd : rd = .zr ∨ rd ∈ rs) : LogicalUpdate i rs rd v s :=
  completesWith_of_exec hi (onlyFlags_logicFlags v) (flagsAre_logicFlags v s) hd

/-- A write to zr is flags-only: zr reads 0 before and after it (R21). -/
theorem flagsOnly_of_registerWritten_zr (h : RegisterWritten .zr v c sg z s t) :
    FlagsAre c sg z t ∧ t.addr = s.addr + 2 ∧ RegsSameBut [] s t ∧ LoadsSameBut [] s t ∧ RestSame s t := by
  obtain ⟨-, hflags, haddr, hregs, hloads, hrest⟩ := h
  refine ⟨hflags, haddr, fun q _ => ?_, hloads, hrest⟩
  by_cases hq : q = .zr
  · rw [hq, t.reg_zr, s.reg_zr]
  · exact hregs q (by simpa using hq)

theorem exec_szr_zero {a b : Reg} (h : s.params = Params.spec) (hb : s.reg b = 0) :
    exec (.szr rd a b) s = hold [a, b] s (writeBack rd (s.reg a) (freeFlags (s.reg a)) s) :=
  (execSzr_firstIsValue (by rw [h]; rfl)).trans (by rw [if_pos hb])

/-- With a tested register that is not 0, szr writes fl alone, as a write to zr does; rd is not looked at (D15). -/
theorem exec_szr_nonzero {a b : Reg} (h : s.params = Params.spec) (hb : s.reg b ≠ 0) :
    exec (.szr rd a b) s = hold [a, b] s (writeBack .zr (s.reg a) (freeFlags (s.reg a)) s) :=
  (execSzr_firstIsValue (by rw [h]; rfl)).trans (by rw [if_neg hb]; rfl)

/-! The mask of a zero-extended immediate reaches the low byte only. -/

theorem getLsbD_and_zext8 (v : Word) (imm : BitVec 8) (j : Nat) :
    (v &&& zext8 imm).getLsbD j = (v.getLsbD j && imm.getLsbD j) := by
  have hzext : (zext8 imm).getLsbD j = imm.getLsbD j := by
    simpa [zext8] using fun hj => (BitVec.lt_of_getLsbD hj).trans (by decide)
  rw [BitVec.getLsbD_and, hzext]

theorem msb_and_zext8 (v : Word) (imm : BitVec 8) : (v &&& zext8 imm).msb = false := by
  rw [← signOf_eq_msb, signOf, getLsbD_and_zext8, BitVec.getLsbD_of_ge imm 15 (by decide), Bool.and_false]

theorem and_zext8_eq_zero_iff (v : Word) (imm : BitVec 8) :
    v &&& zext8 imm = 0 ↔ ∀ j, j < 8 → (v.getLsbD j && imm.getLsbD j) = false := by
  constructor
  · intro h j _
    rw [← getLsbD_and_zext8, h]
    exact BitVec.getLsbD_zero
  · intro h
    refine BitVec.eq_of_getLsbD_eq fun j _ => ?_
    rw [getLsbD_and_zext8, BitVec.ofNat_eq_ofNat, BitVec.getLsbD_zero]
    by_cases hj : j < 8
    · exact h j hj
    · rw [BitVec.getLsbD_of_ge imm j (not_lt.mp hj), Bool.and_false]

end Sys2Proof.Machine
end

section
/-! PROOF. The obligations of 41_logic.md. -/

namespace Sys2Proof.Proofs

open Sys2Proof.Machine Sys2Proof.Safety Sys2Proof.Laws

/-- Settles O7: at the spec's choice szr writes rs1 to rd where rs2 is 0, and otherwise to zr, which cannot fault. -/
theorem szrWritesOnlyWhenTheTestedRegisterIsZero : Obligations.SzrWritesOnlyWhenTheTestedRegisterIsZero := by
  intro rd rs1 rs2 s h
  refine ⟨TableRow.szr rd rs1 rs2, fun hb => freeFlagsRule_of_exec (exec_szr_zero h hb) rfl, fun hb hr => ?_⟩
  obtain ⟨-, hdone⟩ := freeFlagsRule_of_exec (exec_szr_nonzero h hb) rfl hr
  obtain ⟨t, ht, hw⟩ := hdone s.pending_zr
  obtain ⟨-, hframe⟩ := flagsOnly_of_registerWritten_zr hw
  exact ⟨t, ht, hframe⟩

/-- Settles O8: the three share the rule of the logical class, each with its own combination of bits. -/
theorem logicRegisterFormsCombineBits : Obligations.LogicRegisterFormsCombineBits := fun rd rs1 rs2 _ =>
  ⟨⟨_, logicalRule_of_exec rfl, fun _ => BitVec.getLsbD_or⟩, TableRow.ior rd rs1 rs2,
    ⟨_, logicalRule_of_exec rfl, fun _ => BitVec.getLsbD_and⟩, TableRow.and rd rs1 rs2,
    ⟨_, logicalRule_of_exec rfl, fun _ => BitVec.getLsbD_xor⟩, TableRow.xor rd rs1 rs2⟩

/-- Settles O9: each reads the register it writes, so none can fault. -/
theorem logicImmediateFormsExtendTheirImmediate : Obligations.LogicImmediateFormsExtendTheirImmediate := by
  intro rw imm s
  rw [← sext8_eq_ofInt, ← zext8_eq_ofNat]
  have hrule {i : Instr} {v : Word} (hi : exec i s = hold [rw] s (writeBack rw v (logicFlags v) s)) :
      LogicalUpdate i [rw] rw v s := logicalUpdate_of_exec hi (.inr (List.mem_singleton_self rw))
  exact ⟨hrule rfl, TableRow.iori rw imm, hrule rfl, TableRow.ioriu rw imm, hrule rfl, TableRow.andi rw imm,
    hrule rfl, TableRow.andiu rw imm, hrule rfl, TableRow.xori rw imm, hrule rfl, TableRow.xoriu rw imm⟩

/-- Settles O10: biti is the logical rule with zr for its destination, on a result whose high byte is 0. -/
theorem bitiTestsTheLowByte : Obligations.BitiTestsTheLowByte := by
  intro rs imm s
  refine ⟨TableRow.biti rs imm, fun hr => ?_⟩
  have hrule : LogicalUpdate (.biti rs imm) [rs] .zr (s.reg rs &&& zext8 imm) s := logicalUpdate_of_exec rfl (.inl rfl)
  obtain ⟨t, ht, hw⟩ := hrule hr
  obtain ⟨⟨-, hs, hz⟩, hframe⟩ := flagsOnly_of_registerWritten_zr hw
  refine ⟨t, ht, ?_, (hs _ rfl).trans (msb_and_zext8 ..), hframe⟩
  rw [hz _ rfl, decide_eq_true_eq, and_zext8_eq_zero_iff]

end Sys2Proof.Proofs
end

section
/-! PROOF. The amount of a register shift at the spec's choice. -/

namespace Sys2Proof.Machine

variable {s : State}

/-- SHIFT_REG_AMOUNT is the low four bits at the spec's choice (R152, D16). -/
theorem regAmount_spec (h : s.params = Params.spec) (v : Word) : regAmount s.params v = v.toNat % 16 := by rw [h]; rfl

/-- Rotation has period 16, so nothing is lost with the high bits of the amount (R160). -/
theorem rotateRight_regAmount_getLsbD (h : s.params = Params.spec) (v a : Word) (j : Nat) (hj : j < 16) :
    (rotateRight v (regAmount s.params a)).getLsbD j = v.getLsbD ((j + a.toNat) % 16) := by
  rw [rotateRight_getLsbD v _ j hj, regAmount_spec h, Nat.add_mod_mod]

end Sys2Proof.Machine
end

section
/-! PROOF. The obligations of 42_shift.md. -/

namespace Sys2Proof.Proofs

open Sys2Proof.Machine Sys2Proof.Safety Sys2Proof.Laws

/-- Settles O11: the four share the rule of class FU, each with its own operation of R150 on the field. -/
theorem immediateShiftsMoveBits : Obligations.ImmediateShiftsMoveBits := by
  intro rd rs amt s
  refine ⟨?bsl, TableRow.bsl rd rs amt, ?bsr, TableRow.bsr rd rs amt, ?bsrs, TableRow.bsrs rd rs amt,
    ⟨_, ?brr, rotateRight_getLsbD _ _⟩, TableRow.brr rd rs amt⟩
  case bsl => exact freeFlagsRule_of_exec rfl (shiftLeft_eq_ofNat ..)
  case bsr => exact freeFlagsRule_of_exec rfl (shiftRight_eq_ofNat ..)
  case bsrs => exact freeFlagsRule_of_exec rfl (shiftRightSigned_eq_ofInt ..)
  case brr => exact freeFlagsRule_of_exec rfl rfl

/-- Settles O12: the same four operations on the amount register, of which the low four bits count at the spec's
choice (D16). -/
theorem registerShiftsUseTheLowFourBits : Obligations.RegisterShiftsUseTheLowFourBits := by
  intro rd rs1 rs2 s h
  rw [← regAmount_spec h]
  refine ⟨?bsld, TableRow.bsld rd rs1 rs2, ?bsrd, TableRow.bsrd rd rs1 rs2, ?bsrsd, TableRow.bsrsd rd rs1 rs2,
    ⟨_, ?brrd, rotateRight_regAmount_getLsbD h _ _⟩, TableRow.brrd rd rs1 rs2⟩
  case bsld => exact freeFlagsRule_of_exec rfl (shiftLeft_eq_ofNat ..)
  case bsrd => exact freeFlagsRule_of_exec rfl (shiftRight_eq_ofNat ..)
  case bsrsd => exact freeFlagsRule_of_exec rfl (shiftRightSigned_eq_ofInt ..)
  case brrd => exact freeFlagsRule_of_exec rfl rfl

end Sys2Proof.Proofs
end

section
/-! PROOF. The obligations of 43_load_immediate.md. -/

namespace Sys2Proof.Proofs

open Sys2Proof.Machine Sys2Proof.Safety Sys2Proof.Laws

/-- Settles O13: with no source there is nothing to hold for, so the rule of class FU leaves a pending rd its fault. -/
theorem loadImmediateFormsFillTheRegister : Obligations.LoadImmediateFormsFillTheRegister := by
  intro rd imm s
  refine ⟨?lli, TableRow.lli rd imm, ?lui, TableRow.lui rd imm⟩
  case lli => exact freeFlagsRule_of_exec rfl (sext8_eq_ofInt imm)
  case lui => exact freeFlagsRule_of_exec rfl (upper8_eq_ofNat imm)

end Sys2Proof.Proofs
end

section
/-! PROOF. The jumps and the branch as the shapes of Safety.lean say them: the frame of a jump once, and what an
instruction leaves that jumps, or that links and jumps. -/

namespace Sys2Proof.Machine

open Sys2Proof.Safety

variable {i : Instr} {s : State} {a : Word}

/-! The TLB after a jump (R223). -/

theorem jumpTo_flushes (h : (s.jumpTo a).addr ≠ s.addr + 2) (hf : s.flushPending = true) :
    (s.jumpTo a).tlb = [] ∧ (s.jumpTo a).flushPending = false := by
  rcases s.jumpTo_cases a with ⟨-, haddr | hnone⟩ | ⟨hj, -, -⟩
  · exact absurd ((s.jumpTo_addr a).trans haddr) h
  · simp [hf] at hnone
  · simp [hj]

theorem tlbSame_jumpTo (h : ¬((s.jumpTo a).addr ≠ s.addr + 2 ∧ s.flushPending = true)) : TlbSame s (s.jumpTo a) := by
  rcases s.jumpTo_cases a with ⟨hj, -⟩ | ⟨-, haddr, hf⟩
  · rw [hj]
    exact ⟨s.setIp_tlb a, s.setIp_flushPending a⟩
  · rw [State.jumpTo_addr] at h
    exact absurd ⟨haddr, hf⟩ h

/-- A jump loads ip, serves a flush that waits, and leaves all else as it was (R30, R223). -/
theorem jumpedTo_jumpTo (a : Word) (s : State) : JumpedTo a s (s.jumpTo a) := by
  refine ⟨s.jumpTo_addr a, s.jumpTo_flags a, fun q _ => State.awaited_congr (s.jumpTo_inflight a) q,
    fun b _ => State.readByte_congr (s.jumpTo_mem a) b,
    ⟨s.jumpTo_pen a, s.jumpTo_ira a, s.jumpTo_savedFlags a, s.jumpTo_masked a, s.jumpTo_entering a,
      s.jumpTo_unfenced a, State.csrWord_congr (s.jumpTo_csrs a)⟩,
    ⟨s.jumpTo_params a, s.jumpTo_platform a, s.jumpTo_image a, s.jumpTo_code a, s.jumpTo_inputs a,
      s.jumpTo_clock a⟩, ?_⟩
  split
  case isTrue h => exact h.elim jumpTo_flushes
  case isFalse h => exact tlbSame_jumpTo h

/-- A link before the jump writes rp only: LINK_OFFSET is 2 at the spec's choice (R175 c, D5). -/
theorem linkedAndJumpedTo_jumpTo (h : s.params = Params.spec) (a : Word) :
    LinkedAndJumpedTo a s ((s.setReg .rp (s.addr + s.params.linkOffset)).jumpTo a) := by
  have hreg (q : Reg) : ((s.setReg .rp (s.addr + s.params.linkOffset)).jumpTo a).reg q =
      if q = .rp then s.addr + 2 else s.reg q := by
    rw [State.reg_congr (State.jumpTo_regs ..), State.reg_setReg, h]
    simp [Params.spec]
  refine ⟨jumpedTo_jumpTo a (s.setReg .rp _), by simp [hreg], fun q hq => ?_⟩
  rw [hreg, if_neg (by simpa using hq)]

theorem answers_jumpedTo_of_exec (hi : exec i s = .next (s.jumpTo a)) :
    Answers i s fun t => JumpedTo a s t ∧ RegsSameBut [] s t :=
  ⟨_, hi, jumpedTo_jumpTo a s, fun q _ => State.reg_congr (s.jumpTo_regs a) q⟩

theorem raises_of_exec_link (hi : exec i s = linkAndJump a s) (hp : s.pending .rp = true) :
    Raises i s (.pendingWrite .rp) := hi.trans (linkAndJump_pending a hp)

theorem answers_linkedAndJumpedTo_of_exec (h : s.params = Params.spec) (hi : exec i s = linkAndJump a s)
    (hp : s.pending .rp = false) : Answers i s (LinkedAndJumpedTo a s) :=
  ⟨_, hi.trans (linkAndJump_ready a hp), linkedAndJumpedTo_jumpTo h a⟩

/-! Each jump, with its target in plain arithmetic. -/

theorem exec_jmp (imm : BitVec 11) (s : State) :
    exec (.jmp imm) s = .next (s.jumpTo (BitVec.ofNat 16 (imm.toNat * 32))) := by
  rw [← absTarget_eq_ofNat]; rfl

theorem exec_jmpl (imm : BitVec 11) (s : State) :
    exec (.jmpl imm) s = linkAndJump (BitVec.ofNat 16 (imm.toNat * 32)) s := by
  rw [← absTarget_eq_ofNat]; rfl

theorem exec_jmpr (h : s.params = Params.spec) (imm : BitVec 11) :
    exec (.jmpr imm) s = .next (s.jumpTo (s.addr + 2 + BitVec.ofInt 16 (2 * imm.toInt))) := by
  rw [← relTarget11_spec, ← h]; rfl

theorem exec_jmprl (h : s.params = Params.spec) (imm : BitVec 11) :
    exec (.jmprl imm) s = linkAndJump (s.addr + 2 + BitVec.ofInt 16 (2 * imm.toInt)) s := by
  rw [← relTarget11_spec, ← h]; rfl

theorem exec_jmpd {rs : Reg} (hr : Ready [rs] s) : exec (.jmpd rs) s = .next (s.jumpTo (s.reg rs)) := hold_ready _ hr

theorem exec_jmpdl {rs : Reg} (hr : Ready [rs] s) : exec (.jmpdl rs) s = linkAndJump (s.reg rs) s := hold_ready _ hr

theorem exec_ret (hp : s.pending .rp = false) : exec .ret s = .next (s.jumpTo (s.reg .rp)) :=
  hold_ready _ fun _ hq => List.mem_singleton.mp hq ▸ hp

theorem exec_brh_taken {cond : Cond} (h : s.params = Params.spec) (imm : BitVec 8) (hc : holds cond s.flags = true) :
    exec (.brh cond imm) s = .next (s.jumpTo (s.addr + 2 + BitVec.ofInt 16 (2 * imm.toInt))) := by
  rw [← relTarget8_spec, ← h]; exact if_pos hc

theorem exec_brh_not_taken {cond : Cond} (imm : BitVec 8) (hc : holds cond s.flags = false) :
    exec (.brh cond imm) s = .next s.advance := if_neg (Bool.eq_false_iff.mp hc)

/-- After a call ret goes to the address behind it: rp holds that address, which is even, and is not pending (R187). -/
theorem ret_after_link (hi : Answers i s (LinkedAndJumpedTo a s)) (hp : s.pending .rp = false) :
    ∃ t u, exec i s = .next t ∧ exec .ret t = .next u ∧ u.addr = s.addr + 2 := by
  obtain ⟨t, ht, ⟨-, -, hloads, -⟩, hlink, -⟩ := hi
  have hready : t.pending .rp = false := by
    rw [State.pending_eq_false_iff, hloads .rp List.not_mem_nil, ← State.pending_eq_false_iff, hp]
  refine ⟨t, _, ht, exec_ret hready, ?_⟩
  rw [State.jumpTo_addr, hlink, State.addr_add_two_and]

/-! The words of the two reserved conditions (R103). -/

/-- A high byte and a low byte, added, are the two bytes side by side. -/
theorem append_zero_add_ofNat (hi imm : BitVec 8) : (hi ++ 0#8 : Word) + BitVec.ofNat 16 imm.toNat = hi ++ imm := by
  have himm : BitVec.ofNat 16 imm.toNat = 0#8 ++ imm := by simp [BitVec.setWidth_eq_append]
  rw [himm, BitVec.append_zero_add_zero_append]

theorem encode_reservedBrhCond011 (imm : BitVec 8) :
    encode (.reservedBrhCond011 imm) = 0xC300 + BitVec.ofNat 16 imm.toNat := (append_zero_add_ofNat 0xC3 imm).symm

theorem encode_reservedBrhCond111 (imm : BitVec 8) :
    encode (.reservedBrhCond111 imm) = 0xC700 + BitVec.ofNat 16 imm.toNat := (append_zero_add_ofNat 0xC7 imm).symm

end Sys2Proof.Machine
end

section
/-! PROOF. The obligations of 44_jump_branch.md. -/

namespace Sys2Proof.Proofs

open Sys2Proof.Machine Sys2Proof.Safety Sys2Proof.Laws

/-- Settles O14: both are a jump to their target, and a jump writes no register. -/
theorem unlinkedJumpsReachTheirTargets : Obligations.UnlinkedJumpsReachTheirTargets := fun imm s h =>
  ⟨answers_jumpedTo_of_exec (exec_jmp imm s), TableRow.jmp imm,
    answers_jumpedTo_of_exec (exec_jmpr h imm), TableRow.jmpr imm⟩

/-- Settles O15: both are a linking jump, which looks at rp before it writes anything. -/
theorem linkingJumpsLeaveTheReturnAddress : Obligations.LinkingJumpsLeaveTheReturnAddress := by
  intro imm s h
  have hjmpl := exec_jmpl imm s
  have hjmprl := exec_jmprl h imm
  exact ⟨fun hp => ⟨raises_of_exec_link hjmpl hp, raises_of_exec_link hjmprl hp⟩,
    fun hp => ⟨answers_linkedAndJumpedTo_of_exec h hjmpl hp, answers_linkedAndJumpedTo_of_exec h hjmprl hp⟩,
    TableRow.jmpl imm, TableRow.jmprl imm⟩

/-- Settles O16: with rs ready the hold is passed, and the target of both is rs as it was before a link. -/
theorem registerJumpsDropBitZero : Obligations.RegisterJumpsDropBitZero := fun _ _ h hr =>
  ⟨answers_jumpedTo_of_exec (exec_jmpd hr), raises_of_exec_link (exec_jmpdl hr),
    answers_linkedAndJumpedTo_of_exec h (exec_jmpdl hr)⟩

/-- Settles O17: the flag value beside each condition is what `holds` says, and the branch goes by that. -/
theorem branchGoesByItsCondition : Obligations.BranchGoesByItsCondition := by
  intro imm s h
  refine ⟨fun p hp => ⟨TableRow.brh p.1 imm, ?_⟩, ?_, rfl, ?_, rfl⟩
  · have hcond : p.2 = holds p.1 s.flags := by
      simp only [List.mem_cons, List.not_mem_nil, or_false] at hp
      rcases hp with rfl | rfl | rfl | rfl | rfl | rfl <;> rfl
    rw [hcond]
    exact ⟨fun htaken => answers_jumpedTo_of_exec (exec_brh_taken h imm htaken),
      fun hnot => ⟨_, exec_brh_not_taken imm hnot, onlyAdvanced_advance s⟩⟩
  · rw [← encode_reservedBrhCond011]
    exact decode_encode rfl
  · rw [← encode_reservedBrhCond111]
    exact decode_encode rfl

/-- Settles O19: both calls complete by O15, and ret takes up the rp they left. -/
theorem callThenReturnResumesAfterTheCall : Obligations.CallThenReturnResumesAfterTheCall := by
  intro imm s h hp
  obtain ⟨-, hcalls, -⟩ := linkingJumpsLeaveTheReturnAddress imm s h
  obtain ⟨hjmpl, hjmprl⟩ := hcalls hp
  exact ⟨ret_after_link hjmpl hp, ret_after_link hjmprl hp⟩

end Sys2Proof.Proofs
end

section
/-! PROOF. The loads, stores and exchanges as the shapes of Safety.lean say them: what a started load and what a write
of memory change of a state, and what each memory instruction answers at the spec's choice. -/

namespace Sys2Proof.Machine

open Sys2Proof.Safety

variable {i : Instr} {r base : Reg} {imm : BitVec 5} {s t : State} {v : Word} {m : Memory}
  {cells : List (Word × Byte)}

/-- The sign extension of a loaded byte keeps its value (R196). -/
theorem sextByte_eq_ofInt (b : Byte) : sextByte b = BitVec.ofInt 16 b.toInt := sext8_eq_ofInt b

/-! What a started load leaves (R202). -/

/-- The load is outstanding for its register, unless that is zr (R21). -/
theorem State.awaited_startLoad_self (r : Reg) (v : Word) (s : State) :
    (s.startLoad r v).awaited r = if r = .zr then none else some v := by
  by_cases hz : r = .zr <;> simp [State.awaited_startLoad, hz]

theorem loadsSameBut_startLoad (r : Reg) (v : Word) (s : State) : LoadsSameBut [r] s (s.startLoad r v) := by
  intro q hq
  rw [State.awaited_startLoad, if_neg fun h => hq (List.mem_singleton.mpr h.1)]

theorem loadStarted_advance (hz : r ≠ .zr) (v : Word) (s : State) : LoadStarted r v s (s.startLoad r v).advance := by
  obtain ⟨haddr, hflags, hregs, -, hrest⟩ := onlyAdvanced_advance (s.startLoad r v)
  exact ⟨(s.awaited_startLoad_self r v).trans (if_neg hz), haddr, hflags, hregs, loadsSameBut_startLoad r v s, hrest⟩

/-! What a write of memory leaves (R53): the bytes at their addresses, and all else as it was. -/

theorem bytesStored_of_mem (hcells : ∀ p ∈ cells, State.readByte { s with mem := m } p.1 = p.2)
    (hothers : MemorySameBut (cells.map Prod.fst) s { s with mem := m }) :
    BytesStored cells s { s with mem := m } :=
  ⟨hcells, hothers, ⟨rfl, rfl, rfl, rfl, rfl, rfl, fun _ => rfl⟩, ⟨rfl, rfl⟩, ⟨rfl, rfl, rfl, rfl, rfl, rfl⟩⟩

theorem bytesStored_writeByte (a : Word) (b : Byte) (s : State) : BytesStored [(a, b)] s (s.writeByte a b) := by
  refine bytesStored_of_mem (fun p hp => ?_) fun q hq => ?_
  · obtain rfl := List.mem_singleton.mp hp
    exact (s.readByte_writeByte a a b).trans (if_pos rfl)
  · exact (s.readByte_writeByte a q b).trans (if_neg fun h => hq (List.mem_singleton.mpr h))

theorem bytesStored_writeWord (a v : Word) (s : State) : BytesStored (wordCells a v) s (s.writeWord a v) := by
  refine bytesStored_of_mem (fun p hp => (s.readByte_writeWord a p.1 v).trans ?_)
    fun q hq => (s.readByte_writeWord a q v).trans ?_
  · simp only [wordCells, List.mem_cons, List.not_mem_nil, or_false] at hp
    rcases hp with rfl | rfl
    · rw [if_neg (add_one_ne a).symm, if_pos rfl, lowByte]
    · rw [if_pos rfl, highByte]
  · obtain ⟨hlow, hhigh⟩ : q ≠ a ∧ q ≠ a + 1 := by simpa [wordCells] using hq
    rw [if_neg hhigh, if_neg hlow]

/-- What follows the write and leaves memory alone keeps the bytes stored: all else is that of `s` already. -/
theorem bytesStored_trans_restSame (h : BytesStored cells s { s with mem := m })
    (hrest : RestSame { s with mem := m } t) : BytesStored cells s t := by
  obtain ⟨hcells, hothers, -⟩ := h
  obtain ⟨hmem, hspecials, htlb, houtside⟩ := hrest
  have hread (a : Word) : t.readByte a = State.readByte { s with mem := m } a := hmem a List.not_mem_nil
  exact ⟨fun p hp => (hread p.1).trans (hcells p hp), fun a ha => (hread a).trans (hothers a ha), hspecials, htlb,
    houtside⟩

theorem storeDone_advance (h : BytesStored cells s { s with mem := m }) :
    StoreDone cells s (State.advance { s with mem := m }) := by
  obtain ⟨haddr, hflags, hregs, hloads, hrest⟩ := onlyAdvanced_advance { s with mem := m }
  exact ⟨bytesStored_trans_restSame h hrest, haddr, hflags, hregs, hloads⟩

theorem exchangeDone_advance (r : Reg) (v : Word) (h : BytesStored cells s { s with mem := m }) :
    ExchangeDone r v cells s (State.startLoad r v { s with mem := m }).advance := by
  obtain ⟨haddr, hflags, hregs, -, hrest⟩ := onlyAdvanced_advance (State.startLoad r v { s with mem := m })
  exact ⟨bytesStored_trans_restSame h hrest, haddr, hflags, hregs, loadsSameBut_startLoad r v _,
    State.awaited_startLoad_self r v _⟩

/-! What an instruction answers whose meaning is a load, or a store or an exchange that was done. -/

theorem raises_of_exec_load {a : Except Refusal Word} (hi : exec i s = load r a s) (hp : s.pending r = true) :
    Raises i s (.pendingWrite r) := hi.trans (load_pending a hp)

theorem refuses_of_exec_load {why : Refusal} (hi : exec i s = load r (.error why) s) (hz : r ≠ .zr)
    (hp : s.pending r = false) : Refuses i s why := by
  rw [Refuses, hi, load, if_neg hz, if_neg (Bool.eq_false_iff.mp hp)]

theorem answers_loadStarted_of_exec (h : s.params = Params.spec) (hi : exec i s = load r (.ok v) s) (hz : r ≠ .zr)
    (hp : s.pending r = false) : Answers i s (LoadStarted r v s) := by
  rw [load_ready v hz hp, State.loadDrawn_spec h] at hi
  exact ⟨_, hi, loadStarted_advance hz v s⟩

theorem answers_storeDone_of_exec (hi : exec i s = afterStore (.ok { s with mem := m }))
    (hb : BytesStored cells s { s with mem := m }) : Answers i s (StoreDone cells s) := ⟨_, hi, storeDone_advance hb⟩

theorem answers_exchangeDone_of_exec (h : s.params = Params.spec)
    (hi : exec i s = afterExchange r (.ok v) (.ok { s with mem := m }))
    (hb : BytesStored cells s { s with mem := m }) :
    Answers i s (ExchangeDone r v cells s) := by
  have hdrawn : State.loadDrawn { s with mem := m } = { s with mem := m } := State.loadDrawn_spec h
  rw [afterExchange, hdrawn] at hi
  exact ⟨_, hi, exchangeDone_advance r v hb⟩

/-! The accesses to memory at the spec's choice: what an odd address and a byte outside the image answer. -/

section
variable (hc : AtSpecChoice s)
include hc

theorem exec_mld (hr : Ready [base] s) : exec (.mld r base imm) s =
    load r (.ok (BitVec.ofInt 16 (s.readByte (byteAddress (s.reg base) imm)).toInt)) s := by
  have h : exec (.mld r base imm) s = _ := hold_ready _ hr
  rw [h, State.effective_byte hc.1, ← sextByte_eq_ofInt]
  simp only [bind, Except.bind, loadByte_spec hc.1 hc.2]
  rfl

theorem loadWord_odd {a : Word} (ha : oddAddress a = true) : loadWord a s = .error .misalignedWord := by
  rw [loadWord_spec hc.1 hc.2, if_pos ha]

theorem storeWord_odd {a : Word} (v : Word) (ha : oddAddress a = true) : storeWord a v s = .error .misalignedWord := by
  rw [storeWord_spec hc.1 hc.2, if_pos ha]

theorem storeByte_outside {a : Word} (b : Byte) (ha : s.inImage a = false) :
    storeByte a b s = .ok (s.writeByte a b) := by
  rw [storeByte_spec hc.1 hc.2, if_neg (Bool.eq_false_iff.mp ha)]

end

end Sys2Proof.Machine
end

section
/-! PROOF. The obligations of 45_memory_access.md. -/

namespace Sys2Proof.Proofs

open Sys2Proof.Machine Sys2Proof.Safety Sys2Proof.Laws

/-- Settles O21: both are a load of what memory holds; to zr it ends before the access, and a pending rd faults before
the odd address is looked at. -/
theorem loadsFixTheValueAndLeaveTheRegisterPending : Obligations.LoadsFixTheValueAndLeaveTheRegisterPending := by
  intro rd base imm s hc hr ea eaw
  have hmld := exec_mld (r := rd) (imm := imm) hc hr
  have hmldw := exec_mldw (r := rd) (imm := imm) hc hr
  refine ⟨TableRow.mld rd base imm, TableRow.mldw rd base imm, ?prefetch, ?pending,
    fun hz hp => ⟨?mld, fun ha => ?odd, fun ha => ?mldw⟩⟩
  case prefetch =>
    rintro rfl
    exact ⟨⟨_, hmld.trans (load_zr _ s), onlyAdvanced_advance s⟩,
      ⟨_, hmldw.trans (load_zr _ s), onlyAdvanced_advance s⟩⟩
  case pending => exact fun hp => ⟨raises_of_exec_load hmld hp, raises_of_exec_load hmldw hp⟩
  case mld => exact answers_loadStarted_of_exec hc.1 hmld hz hp
  case odd =>
    rw [loadWord_odd hc ha] at hmldw
    exact refuses_of_exec_load hmldw hz hp
  case mldw =>
    rw [loadWord_even hc ha] at hmldw
    exact answers_loadStarted_of_exec hc.1 hmldw hz hp

/-- Settles O22: each is one write of memory and the advance, where its access is not refused. -/
theorem storesWriteTheirBytesAndNothingElse : Obligations.StoresWriteTheirBytesAndNothingElse := by
  intro rs base imm s hc hr ea eaw
  have hmst := exec_mst (imm := imm) hc hr
  have hmstw := exec_mstw (imm := imm) hc hr
  refine ⟨TableRow.mst rs base imm, TableRow.mstw rs base imm, fun hi => ?mst, fun ha => ?odd, fun ha h0 h1 => ?mstw⟩
  case mst =>
    rw [storeByte_outside hc _ hi] at hmst
    exact answers_storeDone_of_exec hmst (bytesStored_writeByte ea _ s)
  case odd => rw [Refuses, hmstw, storeWord_odd hc _ ha, afterStore]
  case mstw =>
    rw [storeWord_even hc _ ha h0 h1] at hmstw
    exact answers_storeDone_of_exec hmstw (bytesStored_writeWord eaw _ s)

/-- Settles O23: the old value is read from the state before the write, and its load is started after it. -/
theorem exchangesSwapRegisterAndMemory : Obligations.ExchangesSwapRegisterAndMemory := by
  intro rw base imm s hc hr ea eaw
  have hxch := exec_xch (imm := imm) hc hr
  have hxchw := exec_xchw (imm := imm) hc hr
  refine ⟨TableRow.xch rw base imm, TableRow.xchw rw base imm, fun hi => ?xch, fun ha => ?odd, fun ha h0 h1 => ?xchw⟩
  case xch =>
    rw [storeByte_outside hc _ hi, sextByte_eq_ofInt] at hxch
    exact answers_exchangeDone_of_exec hc.1 hxch (bytesStored_writeByte ea _ s)
  case odd => rw [Refuses, hxchw, loadWord_odd hc ha, afterExchange]
  case xchw =>
    rw [loadWord_even hc ha, storeWord_even hc _ ha h0 h1] at hxchw
    exact answers_exchangeDone_of_exec hc.1 hxchw (bytesStored_writeWord eaw _ s)

end Sys2Proof.Proofs
end

section
/-! PROOF. The control and status registers and the flag and fence encodings: what a CSR read and a CSR write leave, and
what the control encodings answer that change no general register. -/

namespace Sys2Proof.Machine

open Sys2Proof.Safety

variable {i : Instr} {s : State} {rd rs : Reg} {csr : BitVec 6} {name : Csr} {c sg z : Option Bool}

/-! The read of a CSR (R216). -/

theorem csrRead_unbound (rd : Reg) (hc : csrNamed s.platform.csrMap csr = none) :
    csrRead rd csr s = .refused .unboundCsr := by simp [csrRead, hc]

theorem csrRead_bound (rd : Reg) (hc : csrNamed s.platform.csrMap csr = some name) :
    csrRead rd csr s = writeBack rd (readCsr name csr s) (csrDraw name) s := by simp [csrRead, hc]

theorem flagsAre_of_flags_eq {t : State} (h : t.flags = s.flags) :
    FlagsAre (some s.flags.c) (some s.flags.s) (some s.flags.z) t := by
  simp [FlagsAre, h]

/-- A read of a bound CSR is the write of what it reads as to rd, with fl kept. -/
theorem writesRegister_of_csrRead (hi : exec i s = csrRead rd csr s)
    (hc : csrNamed s.platform.csrMap csr = some name) : WritesRegister i [] rd (readCsr name csr s)
      (some s.flags.c) (some s.flags.s) (some s.flags.z) s :=
  writesRegister_of_exec (hi.trans (csrRead_bound rd hc)) (onlyFlags_csrDraw name)
    (flagsAre_of_flags_eq (csrDraw_flags name s))

theorem raises_of_csrRead (hi : exec i s = csrRead rd csr s) (hc : csrNamed s.platform.csrMap csr ≠ none)
    (hp : s.pending rd = true) : Raises i s (.pendingWrite rd) := by
  obtain ⟨name, hname⟩ := Option.ne_none_iff_exists'.mp hc
  obtain ⟨hraises, -⟩ := writesRegister_of_csrRead hi hname nofun
  exact hraises hp

theorem answers_of_csrRead (hi : exec i s = csrRead rd csr s) (hc : csrNamed s.platform.csrMap csr = some name)
    (hp : s.pending rd = false) : Answers i s (RegisterWritten rd (readCsr name csr s)
      (some s.flags.c) (some s.flags.s) (some s.flags.z) s) := by
  obtain ⟨-, hdone⟩ := writesRegister_of_csrRead hi hc nofun
  exact hdone hp

/-- The four low bits side by side, under twelve zeros, are their weighted sum. -/
theorem append_flagBits (c sg z b : Bool) :
    (0 : BitVec 12) ++ BitVec.ofBool b ++ BitVec.ofBool z ++ BitVec.ofBool sg ++ BitVec.ofBool c =
      BitVec.ofNat 16 (c.toNat + 2 * sg.toNat + 4 * z.toNat + 8 * b.toNat) := by
  revert c sg z b
  decide

/-- At the spec's choice c, s and z are bits 0, 1 and 2 of fl, and bit 3 is the free one (D12). -/
theorem flagsWord_spec (f : Flags) (free : Word) : flagsWord Params.spec.flLayout f free =
    BitVec.ofNat 16 (f.c.toNat + 2 * f.s.toNat + 4 * f.z.toNat + 8 * (free.getLsbD 3).toNat) :=
  append_flagBits f.c f.s f.z (free.getLsbD 3)

/-! The write of a CSR (R217). -/

/-- With its source ready a write that is described is the write and the advance. -/
theorem csrWrite_ready_done {u : State} (hc : csrNamed s.platform.csrMap csr = some name) (hr : Ready [rs] s)
    (hu : writeCsr name csr (s.reg rs) s = .ok u) : csrWrite rs csr s = .next u.advance :=
  (csrWrite_done hc hu).trans (hold_ready _ hr)

theorem csrWrite_ready_refused {why : Refusal} (hc : csrNamed s.platform.csrMap csr = some name) (hr : Ready [rs] s)
    (hu : writeCsr name csr (s.reg rs) s = .error why) : csrWrite rs csr s = .refused why :=
  (csrWrite_refused hc hu).trans (hold_ready _ hr)

/-- The writes that have no step whatever the value (D41, R66). -/
theorem writeCsr_undescribed (h : name ∈ [Csr.ip, Csr.ira, Csr.readOnly, Csr.vmConfig]) (v : Word) :
    writeCsr name csr v s = .error .unspecifiedCsrWrite := by
  simp only [List.mem_cons, List.not_mem_nil, or_false] at h
  rcases h with rfl | rfl | rfl | rfl <;> rfl

theorem writeCsr_pen_zero : writeCsr .pen csr 0 s = .ok { s with pen := false } := rfl

theorem writeCsr_pen_nonzero {v : Word} (hv : v ≠ 0) : writeCsr .pen csr v s = .error .unspecifiedCsrWrite := if_neg hv

theorem csrWritten_advance (pen : Bool) (csrs : Vector Word 64) (s : State) :
    CsrWritten pen (State.csrWord { s with csrs := csrs }) s (State.advance { s with pen := pen, csrs := csrs }) := by
  obtain ⟨haddr, hflags, hregs, hloads, hmem, ⟨hpen, hira, hsaved, hmasked, hentering, hunfenced, hcsr⟩, htlb,
    houtside⟩ := onlyAdvanced_advance { s with pen := pen, csrs := csrs }
  exact ⟨hpen, hcsr, hira, hsaved, hmasked, hentering, hunfenced, haddr, hflags, hregs, hloads, hmem, htlb, houtside⟩

theorem csrWritten_setCsrWord (csr : BitVec 6) (v : Word) (s : State) :
    CsrWritten s.pen (fun k => if k = csr then v else s.csrWord k) s (s.setCsrWord csr v).advance := by
  have hword : (s.setCsrWord csr v).csrWord = fun k => if k = csr then v else s.csrWord k :=
    funext fun k => s.csrWord_setCsrWord csr k v
  rw [← hword]
  exact csrWritten_advance s.pen _ s

/-! The control encodings. -/

/-- An instruction that writes fl alone leaves what a write to zr does (R21). -/
theorem answers_flagsWritten_of_exec {flags : State → State} (hi : exec i s = .next (flags s).advance)
    (hf : OnlyFlags flags s) (hfl : FlagsAre c sg z (flags s)) : Answers i s (RegisterWritten .zr 0 c sg z s) :=
  ⟨_, hi, registerWritten_advance .zr 0 hf hfl⟩

/-- scf and rscf write c and leave s and z (D39). -/
theorem answers_carryFlag_of_exec {b : Bool} (hi : exec i s = .next (carryFlag b s).advance) :
    Answers i s (RegisterWritten .zr 0 (some b) (some s.flags.s) (some s.flags.z) s) :=
  answers_flagsWritten_of_exec hi ⟨_, _, rfl⟩ (by simp [FlagsAre])

theorem exec_fence_held {r : Reg} (hp : s.pending r = true) : exec .fence s = .next s := by
  refine if_pos (Bool.of_not_eq_false fun hnone => ?_)
  rw [s.anyPending_eq_false_iff.mp hnone r] at hp
  cases hp

theorem exec_fence_done (hp : ∀ r, s.pending r = false) :
    exec .fence s = .next (State.advance { s with unfenced := [] }) :=
  if_neg (Bool.eq_false_iff.mp (s.anyPending_eq_false_iff.mpr hp))

/-- The target of jmp is even, so ip holds it as it is (R30, R176). -/
theorem ofNat_mul_32_and_mask (n : Nat) : BitVec.ofNat 16 (n * 32) &&& 0xFFFE = BitVec.ofNat 16 (n * 32) := by
  apply even_and_mask
  rw [getLsbD_zero_eq, BitVec.toNat_ofNat, decide_eq_false_iff_not]
  omega

theorem exec_wfi_pending (h : s.pen = true) : exec .wfi s = .next s.advance := if_pos h

theorem exec_wfi_none (h : s.pen = false) :
    exec .wfi s = if s.platform.interruptSource then .next s else .fault (.sleeping s.addr) :=
  if_neg (Bool.eq_false_iff.mp h)

end Sys2Proof.Machine
end

section
/-! PROOF. The return from a trap (R224, R292): what rfi answers before its effects, and what they leave. -/

namespace Sys2Proof.Machine

open Sys2Proof.Safety

variable {r : TrapReturn} {s u : State}

theorem exec_rfi_absent (h : s.platform.trapReturn = none) : exec .rfi s = .refused .noTrapReturn := by
  simp [exec, execRfi, h]

theorem exec_rfi_return (h : s.platform.trapReturn = some r) : exec .rfi s = returnFromTrap r s := by
  simp [exec, execRfi, h]

/-- A pending register that the return writes faults: the first one of them (R28). -/
theorem returnFromTrap_raises (hr : Ready r.sources s) (ht : ∃ q ∈ r.targets, s.pending q = true) :
    ∃ q ∈ r.targets, s.pending q = true ∧ returnFromTrap r s = takeTrap (.pendingWrite q) s := by
  obtain ⟨q, hq⟩ := Option.isSome_iff_exists.mp (List.find?_isSome.mpr ht)
  refine ⟨q, List.mem_of_find?_eq_some hq, List.find?_some hq, ?_⟩
  rw [returnFromTrap, hold_ready _ hr, hq]

theorem returnFromTrap_ready (hr : Ready r.sources s) (ht : Ready r.targets s) :
    returnFromTrap r s = answer (completeReturn r s) := by
  have hnone : r.targets.find? s.pending = none := List.find?_eq_none.mpr fun q hq => by simp [ht q hq]
  rw [returnFromTrap, hold_ready _ hr, hnone]

/-- fl of the state that the further writes are made in: the saved flags where the platform restores them. -/
def TrapReturn.flagsFor (r : TrapReturn) (s : State) : Flags := if r.restoresFlags then s.savedFlags else s.flags

theorem restoreFlags_eq (r : TrapReturn) (s : State) :
    (if r.restoresFlags then s.setFlags s.savedFlags else s) = { s with flags := r.flagsFor s } := by
  unfold TrapReturn.flagsFor
  split <;> rfl

/-- How rp receives the word it is reloaded with, if there is one: as a load, or at once. -/
def TrapReturn.reload (r : TrapReturn) (rp : Option Word) : State → State :=
  rp.elim id (if r.reloadPends then State.startLoad .rp else State.setReg .rp)

/-- The state a return ends in, from the reloaded word and what the further writes left. -/
def TrapReturn.ends (r : TrapReturn) (rp : Option Word) (u s : State) : State :=
  (r.reload rp { u with masked := !r.unmasks && u.masked, draws := s.draws + 1 }).setIp s.ira

/-- A return completes where its reload and its further writes have a step. -/
theorem completeReturn_of_computes {rp : Option Word}
    (hrp : (r.rpReload.mapM fun a => TrapExpr.value 0 s (.word a)) = .ok rp)
    (hu : applyWrites 0 s r.writes { s with flags := r.flagsFor s } = .ok u) :
    completeReturn r s = .ok (r.ends rp u s) := by
  simp only [completeReturn, restoreFlags_eq, bind, Except.bind, hrp, hu]
  cases rp with
  | none => rfl
  | some v => cases hpends : r.reloadPends <;> simp [TrapReturn.ends, TrapReturn.reload, hpends, pure, Except.pure]

/-- The reload touches no field but those of the registers. -/
theorem TrapReturn.reload_frame (r : TrapReturn) (rp : Option Word) (s : State) :
    ∃ regs inflight, r.reload rp s = { s with regs := regs, inflight := inflight } := by
  unfold TrapReturn.reload
  cases rp with
  | none => exact ⟨_, _, rfl⟩
  | some v => cases r.reloadPends <;> exact ⟨_, _, rfl⟩

/-- What rp and the loads in flight are after a return (R292): a lazy reload leaves rp pending and unchanged. -/
theorem TrapReturn.ends_rp {rp : Option Word} (h : u.inflight = s.inflight) :
    if rp.isSome && r.reloadPends then
      (r.ends rp u s).awaited .rp = some (rp.getD (u.reg .rp)) ∧ RegsSameBut [] u (r.ends rp u s) ∧
        LoadsSameBut [.rp] s (r.ends rp u s)
    else (r.ends rp u s).reg .rp = rp.getD (u.reg .rp) ∧ RegsSameBut [.rp] u (r.ends rp u s) ∧
      LoadsSameBut [] s (r.ends rp u s) := by
  have hloads (q : Reg) : u.awaited q = s.awaited q := State.awaited_congr h q
  cases rp with
  | none => exact ⟨rfl, fun _ _ => rfl, fun q _ => hloads q⟩
  | some v =>
    cases hpends : r.reloadPends with
    | false =>
      have hreload : r.reload (some v) = State.setReg .rp v := by simp [TrapReturn.reload, hpends]
      rw [TrapReturn.ends, hreload]
      refine ⟨rfl, fun q hq => (State.reg_setReg _ .rp q v).trans (if_neg ?_), fun q _ => hloads q⟩
      exact fun h => hq (List.mem_singleton.mpr h.1)
    | true =>
      have hreload : r.reload (some v) = State.startLoad .rp v := by simp [TrapReturn.reload, hpends]
      rw [TrapReturn.ends, hreload]
      exact ⟨rfl, fun _ _ => rfl, fun q hq => (loadsSameBut_startLoad .rp v _ q hq).trans (hloads q)⟩

/-- A platform's further writes leave the loads in flight, a waiting entry and the outside as they were. -/
theorem KeptByWrites.outsideSame {targets : List Reg} (h : KeptByWrites targets s u) :
    u.inflight = s.inflight ∧ u.entering = s.entering ∧ OutsideSame s u := by
  rw [h.rest]
  exact ⟨rfl, rfl, rfl, rfl, rfl, rfl, rfl, rfl⟩

/-- A return leaves what the further writes left, but for ip, rp and the mask. -/
theorem returned_ends {rp : Option Word} (hrp : r.rpReload.isSome = rp.isSome)
    (hu : applyWrites 0 s r.writes { s with flags := r.flagsFor s } = .ok u) :
    Returned r (rp.getD (u.reg .rp)) u s (r.ends rp u s) := by
  obtain ⟨hloads, hentering, houtside⟩ := (applyWrites_ok hu).outsideSame
  refine ⟨State.addr_setIp .., ?rp, ?rest⟩
  case rp =>
    rw [hrp]
    exact TrapReturn.ends_rp hloads
  case rest =>
    obtain ⟨regs, inflight, hframe⟩ :=
      r.reload_frame rp { u with masked := !r.unmasks && u.masked, draws := s.draws + 1 }
    rw [TrapReturn.ends, hframe]
    exact ⟨rfl, rfl, rfl, fun _ => rfl, fun _ _ => rfl, rfl, rfl, hentering, ⟨rfl, rfl⟩, houtside⟩

/-! What the reload of rp computes (R292). -/

theorem reload_none (h : r.rpReload = none) :
    (r.rpReload.mapM fun a => TrapExpr.value 0 s (.word a)) = .ok none := by rw [h]; rfl

/-- A reload answers as the load of its address does. -/
theorem reload_some {p : TrapExpr} {a : Word} {m : Except Refusal Word} (h : r.rpReload = some p)
    (ha : p.value 0 s = .ok a) (hm : loadWord a s = m) :
    (r.rpReload.mapM fun a => TrapExpr.value 0 s (.word a)) = m.map some := by
  simp only [h, Option.mapM_some, TrapExpr.value, ha, bind, Except.bind, hm]
  cases m <;> rfl

/-- A reload that has no step refuses the return. -/
theorem completeReturn_refused {why : Refusal}
    (hrp : (r.rpReload.mapM fun a => TrapExpr.value 0 s (.word a)) = .error why) :
    completeReturn r s = .error why := by
  simp only [completeReturn, bind, Except.bind, hrp]

/-- A return that is not held, does not fault and computes its values completes. -/
theorem answers_returned_of_exec {rp : Option Word} (hi : exec .rfi s = answer (completeReturn r s))
    (hrp : (r.rpReload.mapM fun a => TrapExpr.value 0 s (.word a)) = .ok rp) (hsome : r.rpReload.isSome = rp.isSome)
    (hu : applyWrites 0 s r.writes { s with flags := r.flagsFor s } = .ok u) :
    Answers .rfi s (Returned r (rp.getD (u.reg .rp)) u s) := by
  rw [completeReturn_of_computes hrp hu] at hi
  exact ⟨_, hi, returned_ends hsome hu⟩

end Sys2Proof.Machine
end

section
/-! PROOF. The obligations of 46_system.md. -/

namespace Sys2Proof.Proofs

open Sys2Proof.Machine Sys2Proof.Safety Sys2Proof.Laws

/-- Settles O33: the hold, the fault of the first pending target, and then the return, which computes the reload before
it makes a write. -/
theorem rfiReturnsToTheInterruptedProgram : Obligations.RfiReturnsToTheInterruptedProgram := by
  intro s hc
  refine ⟨exec_rfi_absent, fun r hreturn => ?_⟩
  have hrfi := exec_rfi_return hreturn
  refine ⟨fun q hq hp => ?held, fun hr ht => ?raises, fun hr ht u hu => ?completes⟩
  case held => exact hrfi.trans (hold_pending _ hq hp)
  case raises =>
    obtain ⟨q, hq, hp, hraises⟩ := returnFromTrap_raises hr ht
    exact ⟨q, hq, hp, hrfi.trans hraises⟩
  case completes =>
    rw [returnFromTrap_ready hr ht] at hrfi
    refine ⟨fun hnone => ?_, fun p a hp ha => ⟨fun hodd => ?_, fun heven => ?_⟩⟩
    · exact answers_returned_of_exec hrfi (reload_none hnone) (by rw [hnone]; rfl) hu
    · have hreload := reload_some hp ha (loadWord_odd hc hodd)
      rw [completeReturn_refused hreload] at hrfi
      exact hrfi
    · have hreload := reload_some hp ha (loadWord_even hc heven)
      exact answers_returned_of_exec hrfi hreload (by rw [hp]; rfl) hu

/-- Settles O35: the check over all eight registers finds a pending one, or none. -/
theorem fenceCompletesOnlyWithNothingPending : Obligations.FenceCompletesOnlyWithNothingPending := fun _ =>
  ⟨fun _ hp => exec_fence_held hp, fun hp => ⟨_, exec_fence_done hp, onlyAdvanced_advance _, hp⟩⟩

/-- Settles O36: ftlb advances with the mark set; the target of jmp is even, so a jump to it is taken unless it is
A + 2; a branch that is not taken only advances. -/
theorem tlbFlushWaitsForTheNextTakenJump : Obligations.TlbFlushWaitsForTheNextTakenJump := by
  intro s
  refine ⟨?ftlb, fun imm hf hne => ⟨_, exec_jmp imm s, jumpTo_flushes ?_ hf⟩,
    fun cond imm hnot => ⟨_, exec_brh_not_taken imm hnot, s.advance_tlb, s.advance_flushPending⟩⟩
  case ftlb =>
    obtain ⟨haddr, hflags, hregs, hloads, hmem, hspecials, ⟨htlb, hmark⟩, houtside⟩ :=
      onlyAdvanced_advance { s with flushPending := true }
    exact ⟨_, rfl, hmark, htlb, haddr, hflags, hregs, hloads, hmem, hspecials, houtside⟩
  · rw [State.jumpTo_addr, ofNat_mul_32_and_mask]
    exact hne

/-- Settles O37: both write c alone, and their words decode by O42's argument. -/
theorem scfAndRscfSetOnlyTheCarryFlag : Obligations.ScfAndRscfSetOnlyTheCarryFlag := fun _ =>
  ⟨answers_carryFlag_of_exec rfl, rfl, decode_encode (i := .scf) rfl,
    answers_carryFlag_of_exec rfl, rfl, decode_encode (i := .rscf) rfl⟩

/-- Settles O38: the number is looked up first, and the read of a bound one is a register write that keeps fl. -/
theorem csrrReadsTheBoundRegister : Obligations.CsrrReadsTheBoundRegister := by
  intro rd csr s h i hi
  obtain ⟨hread, hrow⟩ : exec i s = csrRead rd csr s ∧ EncodedAs i 0xF8C0 0x1800 := by
    simp only [List.mem_cons, List.not_mem_nil, or_false] at hi
    rcases hi with rfl | rfl
    · exact ⟨rfl, TableRow.csrr rd csr⟩
    · exact ⟨rfl, TableRow.ip rd csr⟩
  refine ⟨hrow, fun hc => hread.trans (csrRead_unbound rd hc), raises_of_csrRead hread,
    fun hp => ⟨fun hc => ?ip, fun hc => answers_of_csrRead hread hc hp, fun hc => ?fl, fun hc => ?bound⟩⟩
  case ip =>
    have hdone := answers_of_csrRead hread hc hp
    rwa [readCsr, h] at hdone
  case fl =>
    have hdone := answers_of_csrRead hread hc hp
    rw [readCsr, h, flagsWord_spec] at hdone
    exact ⟨_, hdone⟩
  case bound =>
    obtain ⟨name, hname⟩ := Option.ne_none_iff_exists'.mp hc
    exact ⟨_, answers_of_csrRead hread hname hp⟩

/-- Settles O39: the number is looked up before the hold on rs, and then the name says which write it is; clri is the
write of zr. -/
theorem csrwWritesTheDescribedRegisters : Obligations.CsrwWritesTheDescribedRegisters := by
  intro rs csr s h i hi
  obtain ⟨hwrite, hrow⟩ : exec i s = csrWrite rs csr s ∧ EncodedAs i 0xF8C0 0x1840 := by
    rcases hi with rfl | ⟨rfl, rfl⟩
    · exact ⟨rfl, TableRow.csrw rs csr⟩
    · exact ⟨rfl, TableRow.csrw .zr csr⟩
  refine ⟨hrow, fun hc => hwrite.trans (csrWrite_unbound rs hc), fun hr => ⟨fun hc => ?fl, fun hc hv => ?clear,
    fun hc hv => ?pen, fun hc => ?interface, fun name hname hc => ?undescribed⟩⟩
  case fl =>
    refine answers_flagsWritten_of_exec (hwrite.trans (csrWrite_ready_done hc hr rfl)) ⟨_, _, rfl⟩ ?_
    simp [FlagsAre, flagsOfWord, h, Params.spec]
  case clear =>
    have hu : writeCsr .pen csr (s.reg rs) s = .ok { s with pen := false } := by rw [hv, writeCsr_pen_zero]
    exact ⟨_, hwrite.trans (csrWrite_ready_done hc hr hu), csrWritten_advance false s.csrs s⟩
  case pen => exact hwrite.trans (csrWrite_ready_refused hc hr (writeCsr_pen_nonzero hv))
  case interface => exact ⟨_, hwrite.trans (csrWrite_ready_done hc hr rfl), csrWritten_setCsrWord csr (s.reg rs) s⟩
  case undescribed => exact hwrite.trans (csrWrite_ready_refused hc hr (writeCsr_undescribed hname _))

/-- Settles O34: wfi asks for a pending interrupt first, and then for a source of one. -/
theorem wfiWaitsForAPendingInterrupt : Obligations.WfiWaitsForAPendingInterrupt := fun s =>
  ⟨fun hp => ⟨_, exec_wfi_pending hp, onlyAdvanced_advance s⟩,
    fun hp hsource => (exec_wfi_none hp).trans (if_pos hsource),
    fun hp hsource => (exec_wfi_none hp).trans (if_neg (Bool.eq_false_iff.mp hsource))⟩

end Sys2Proof.Proofs
end

section
/-! PROOF. The pure pseudo-instructions (R240 to R262): each is its base instruction, since zr reads 0 and is never
pending, and the operands that it fixes turn the base instruction's value and carry into those of its own rule. -/

namespace Sys2Proof.Machine

open Sys2Proof.Safety

variable {s : State}

/-- Either byte of 0 is 0, so mclr stores it whatever STORE_BYTE_SELECT is (R261). -/
theorem storedByte_zero (p : Params) : storedByte p 0 = 0 := by
  unfold storedByte
  cases p.storeByteSelect <;> rfl

theorem exec_mclr_eq_mst (base : Reg) (imm : BitVec 5) (s : State) :
    exec (.mclr base imm) s = exec (.mst .zr base imm) s := by
  have hmst : exec (.mst .zr base imm) s = hold [base] s
      (afterStore (do storeByte (← s.effective (s.reg base) (byteOffset imm)) (storedByte s.params 0) s)) := rfl
  rw [hmst, storedByte_zero]
  rfl

/-- Every instruction is its base (R240). Where the base instruction reads zr, the hold and the value with zr in them
compute to those without it; where an immediate is fixed, its extension computes to the pseudo-instruction's own word; ip
and ret are one meaning under two names; and an instruction that is no pseudo-instruction is its own base. -/
theorem exec_base (i : Instr) (s : State) : exec i s = exec i.base s := by
  cases i with
  | mov | test | neg | cmp | sneg | spos | snez | clri | prfd | mclrw => rfl
  | inc | dec | alloc | cut4 | cut8 | clrl | not | not8 | clr => rfl
  | ip | ret => rfl
  | mclr base imm => exact exec_mclr_eq_mst base imm s
  | _ => rfl

/-! The sums and differences with an operand fixed (R241 to R246). -/

theorem addWithCarry_zero_value (a : Word) : (addWithCarry a 0 false).value = a := by
  rw [addWithCarry_false_value]
  exact BitVec.add_zero a

/-- Nothing carries out of a sum with 0, so mov and test clear c. -/
theorem addWithCarry_zero_carry (a : Word) : (addWithCarry a 0 false).carry = false := by
  rw [addWithCarry_false_carry, decide_eq_false_iff_not]
  exact Nat.not_le.mpr a.isLt

/-- Only 0 can be taken from 0 without a borrow, so neg sets c for it alone (D8). -/
theorem subWithCarry_from_zero_carry {p : Params} (hp : p.subCarryNotBorrow = true) (b : Word) :
    (subWithCarry p 0 b true).carry = decide (b = 0) := by
  rw [subWithCarry_true_carry hp, decide_eq_decide]
  bv_omega

/-- Only 0xFFFF carries out when 1 is added. -/
theorem addWithCarry_one_carry (a : Word) : (addWithCarry a 1 false).carry = decide (a = 0xFFFF) := by
  rw [addWithCarry_false_carry, decide_eq_decide]
  bv_omega

/-- dec adds 0xFFFF, which is -1. -/
theorem addWithCarry_neg_one_value (a : Word) : (addWithCarry a 0xFFFF false).value = a - 1 := by
  rw [addWithCarry_false_value]
  bv_omega

/-- Only 0 does not carry out when 0xFFFF is added. -/
theorem addWithCarry_neg_one_carry (a : Word) : (addWithCarry a 0xFFFF false).carry = decide (a ≠ 0) := by
  rw [addWithCarry_false_carry, decide_eq_decide]
  bv_omega

/-! The comparisons with 0 at the spec's choice (R250 to R252, D14). -/

theorem boolWord_signedLess_spec (h : s.params = Params.spec) (a b : Word) :
    boolWord (signedLess s.params a b) = if a.toInt < b.toInt then 1 else 0 := by
  rw [h, signedLess_spec, boolWord_decide]

/-- Unsigned, every word but 0 is above 0. -/
theorem boolWord_zero_unsignedLess (b : Word) : boolWord (unsignedLess 0 b) = if b ≠ 0 then 1 else 0 := by
  have hpos : (0 : Word).toNat < b.toNat ↔ b ≠ 0 := by bv_omega
  rw [unsignedLess, boolWord_decide]
  simp only [hpos]

/-! The masks (R253 to R257). -/

theorem and_mask_eq_mod (v : Word) {k : Nat} (hk : k ≤ 16) :
    v &&& BitVec.ofNat 16 (2 ^ k - 1) = BitVec.ofNat 16 (v.toNat % 2 ^ k) := by
  have hmask : 2 ^ k - 1 < 2 ^ 16 :=
    (Nat.sub_one_lt (Nat.two_pow_pos k).ne').trans_le (Nat.pow_le_pow_right (by decide) hk)
  apply BitVec.eq_of_toNat_eq
  rw [BitVec.toNat_and, BitVec.toNat_ofNat, Nat.mod_eq_of_lt hmask, Nat.and_two_pow_sub_one_eq_mod,
    BitVec.toNat_ofNat, Nat.mod_eq_of_lt ((Nat.mod_le ..).trans_lt v.isLt)]

/-! The memory forms (R259, R260, R262). -/

theorem exec_prfd {base : Reg} (imm : BitVec 5) (hr : Ready [base] s) :
    exec (.prfd base imm) s = .next s.advance := hold_ready _ hr

theorem exec_ret_held (hp : s.pending .rp = true) : exec .ret s = .next s :=
  hold_pending _ List.mem_cons_self hp

end Sys2Proof.Machine
end

section
/-! PROOF. The data directives (R266 to R276): the bytes of a number and the number of bytes, once for every length. -/

namespace Sys2Proof.Machine

/-- The number that bytes spell, the first the least significant; a byte left unwritten counts as 0. -/
def leNumber (bytes : List (Option Byte)) : Nat := bytes.foldr (fun b n => (b.getD 0).toNat + 256 * n) 0

/-- The directive emits `n` written bytes that spell `v`. -/
def Emits (d : Directive) (n v : Nat) : Prop :=
  ∃ bytes, d.emit = some bytes ∧ bytes.length = n ∧ (∀ b ∈ bytes, b ≠ none) ∧ leNumber bytes = v

theorem length_bytesOf (n v : Nat) : (bytesOf n v).length = n := by
  induction n generalizing v with
  | zero => rfl
  | succ n ih => rw [bytesOf, List.length_cons, ih]

/-- The bytes of a number spell it, as far as they reach (R266, D31). -/
theorem leNumber_bytesOf (n v : Nat) : leNumber ((bytesOf n v).map some) = v % 256 ^ n := by
  induction n generalizing v with
  | zero => exact (Nat.mod_one v).symm
  | succ n ih =>
    have hcons : leNumber ((bytesOf (n + 1) v).map some) = v % 256 + 256 * leNumber ((bytesOf n (v / 256)).map some) :=
      congrArg (· + _) (BitVec.toNat_ofNat v 8)
    rw [hcons, ih, Nat.pow_succ', Nat.mod_mul]

theorem emits_of_emit_eq {d : Directive} {n v : Nat} (hd : d.emit = some ((bytesOf n v).map some))
    (hv : v < 256 ^ n) : Emits d n v :=
  ⟨_, hd, by rw [List.length_map, length_bytesOf], by simp, (leNumber_bytesOf n v).trans (Nat.mod_eq_of_lt hv)⟩

/-- The bound of `n` bytes, in bits. -/
theorem pow_256_eq (n : Nat) : 256 ^ n = 2 ^ (8 * n) := (Nat.pow_mul 2 8 n).symm

section
variable {d : Directive} {n : Nat}

/-! The unsigned ones (R267 to R270). -/

section
variable {v : Nat} (hd : d.emit = unsignedBytes n v)
include hd

theorem emits_of_unsigned (hv : v < 2 ^ (8 * n)) : Emits d n v := by
  rw [← pow_256_eq] at hv
  exact emits_of_emit_eq (hd.trans (if_pos hv)) hv

theorem emit_eq_none_of_unsigned (hv : 2 ^ (8 * n) ≤ v) : d.emit = none := by
  rw [← pow_256_eq] at hv
  exact hd.trans (if_neg (Nat.not_lt.mpr hv))

end

/-! The signed ones (R271 to R274): `k` bits and the sign. -/

section
variable {v : Int} {k : Nat} (hk : k + 1 = 8 * n)
include hk

theorem int_pow_256_eq : (256 ^ n : Int) = 2 ^ (k + 1) := by
  rw [hk, pow_mul]
  norm_num

/-- Twice the value is in the range of `n` bytes where the value has `k` bits and the sign. -/
theorem signed_fits_iff : -(256 ^ n : Int) ≤ 2 * v ∧ 2 * v < (256 ^ n : Int) ↔ -2 ^ k ≤ v ∧ v < 2 ^ k := by
  rw [int_pow_256_eq hk, pow_succ]
  omega

/-- The two's complement of a value that fits is its remainder, which is an unsigned number of as many bytes. -/
theorem emits_of_signed (hd : d.emit = signedBytes n v) (hl : -2 ^ k ≤ v) (hu : v < 2 ^ k) :
    Emits d n (v % 2 ^ (k + 1)).toNat := by
  have hpos : (0 : Int) < 256 ^ n := by positivity
  have hlt : (v % 256 ^ n).toNat < 256 ^ n := by
    rw [Int.toNat_lt (Int.emod_nonneg v hpos.ne')]
    exact_mod_cast Int.emod_lt_of_pos v hpos
  rw [← int_pow_256_eq hk]
  exact emits_of_emit_eq (hd.trans (if_pos ((signed_fits_iff hk).mpr ⟨hl, hu⟩))) hlt

theorem emit_eq_none_of_signed (hd : d.emit = signedBytes n v) (hv : v < -2 ^ k ∨ 2 ^ k ≤ v) : d.emit = none := by
  refine hd.trans (if_neg fun hfits => ?_)
  obtain ⟨hl, hu⟩ := (signed_fits_iff hk).mp hfits
  omega

end
end

/-! The text (R276). -/

/-- A text of characters with a code gives the codes in order. -/
theorem asciiBytes_of_codes {text : List Char} (h : ∀ ch ∈ text, ch.toNat < 128) :
    asciiBytes text = some (text.map fun ch => some (BitVec.ofNat 8 ch.toNat)) := by
  induction text with
  | nil => rfl
  | cons ch rest ih =>
    obtain ⟨hch, hrest⟩ := List.forall_mem_cons.mp h
    rw [asciiBytes, if_pos hch, ih hrest]
    rfl

/-- One character without a code is enough for no answer. -/
theorem asciiBytes_eq_none {text : List Char} (h : ∃ ch ∈ text, 128 ≤ ch.toNat) : asciiBytes text = none := by
  induction text with
  | nil => simp at h
  | cons ch rest ih =>
    rw [asciiBytes]
    split
    case isTrue hch =>
      have hrest : ∃ ch ∈ rest, 128 ≤ ch.toNat :=
        ((List.exists_mem_cons_iff ..).mp h).resolve_left (Nat.not_le.mpr hch)
      rw [ih hrest, Option.map_none]
    case isFalse => rfl

/-- The sentinel, if there is one, follows the text. -/
theorem emit_ascii (text : List Char) (sen : Option Byte) :
    Directive.emit (.ascii text sen) = (asciiBytes text).map (· ++ sen.toList.map some) := by
  cases sen <;> rfl

end Sys2Proof.Machine
end

section
/-! PROOF. The obligations of 47_pseudo_and_directives.md. -/

namespace Sys2Proof.Proofs

open Sys2Proof.Machine Sys2Proof.Safety Sys2Proof.Laws

/-- Settles O54, by what each pseudo-instruction spells. -/
theorem pseudoInstructionsBehaveAsTheirBase : Obligations.PseudoInstructionsBehaveAsTheirBase := fun i =>
  ⟨(encode_base i).symm, exec_base i⟩

/-- Settles O55: each is one use of the carry rule with an operand fixed; those that write the register they read, or
zr, cannot fault. -/
theorem arithmeticPseudosComplete : Obligations.ArithmeticPseudosComplete := by
  intro rd rs rs2 imm s h
  have hp := subCarryNotBorrow_spec h
  rw [← sext8_eq_ofInt]
  refine ⟨?mov, TableRow.mov rd rs, rfl, rfl, rfl, ?test, TableRow.test rs, ?neg, TableRow.neg rd rs, ?cmp,
    TableRow.cmp rs rs2, ?inc, TableRow.inc rd, ?dec, TableRow.dec rd, ?alloc, TableRow.alloc imm⟩
  case mov => exact arithmeticRule_of_exec h rfl (addWithCarry_zero_value _) (addWithCarry_zero_carry _)
  case test => exact arithmeticUpdate_of_exec h rfl (addWithCarry_zero_value _) (addWithCarry_zero_carry _) (.inl rfl)
  case neg => exact arithmeticRule_of_exec h rfl (subWithCarry_true_value ..) (subWithCarry_from_zero_carry hp _)
  case cmp =>
    exact arithmeticUpdate_of_exec h rfl (subWithCarry_true_value ..) (subWithCarry_true_carry hp ..) (.inl rfl)
  case inc =>
    exact arithmeticUpdate_of_exec h rfl (addWithCarry_false_value ..) (addWithCarry_one_carry _)
      (.inr (List.mem_singleton_self rd))
  case dec =>
    exact arithmeticUpdate_of_exec h rfl (addWithCarry_neg_one_value _) (addWithCarry_neg_one_carry _)
      (.inr (List.mem_singleton_self rd))
  case alloc =>
    exact arithmeticUpdate_of_exec h rfl (addWithCarry_false_value ..) (addWithCarry_false_carry ..)
      (.inr (List.mem_singleton_self Reg.sp))

/-- Settles O56: the comparisons of slt and sltu with zr for one side, exact at the spec's choice (D14). -/
theorem comparisonPseudosComplete : Obligations.ComparisonPseudosComplete := by
  intro rd rs s h
  refine ⟨?sneg, TableRow.sneg rd rs, ?spos, TableRow.spos rd rs, ?snez, TableRow.snez rd rs⟩
  case sneg => exact freeFlagsRule_of_exec rfl (boolWord_signedLess_spec h _ 0)
  case spos => exact freeFlagsRule_of_exec rfl (boolWord_signedLess_spec h 0 _)
  case snez => exact freeFlagsRule_of_exec rfl (boolWord_zero_unsignedLess _)

/-- Settles O57: the first five share the rule of the logical class on the register they read and write, each with its
mask in plain arithmetic; clr is a load immediate. -/
theorem maskPseudosComplete : Obligations.MaskPseudosComplete := by
  intro rw s
  have hrule {i : Instr} {v w : Word} (hi : exec i s = hold [rw] s (writeBack rw v (logicFlags v) s)) (hv : v = w) :
      LogicalUpdate i [rw] rw w s := hv ▸ logicalUpdate_of_exec hi (.inr (List.mem_singleton_self rw))
  refine ⟨?cut4, TableRow.cut4 rw, ?cut8, TableRow.cut8 rw, ?clrl, TableRow.clrl rw, ?not, TableRow.not rw,
    hrule rfl rfl, TableRow.not8 rw, freeFlagsRule_of_exec rfl rfl, TableRow.clr rw⟩
  case cut4 => exact hrule rfl (and_mask_eq_mod (s.reg rw) (k := 4) (by decide))
  case cut8 => exact hrule rfl (and_mask_eq_mod (s.reg rw) (k := 8) (by decide))
  case clrl => exact hrule rfl BitVec.and_zero
  case not => exact hrule rfl BitVec.xor_allOnes

/-- Settles O58: ret is a jump, prfd the advance, and the two stores those of zero bytes, where the access is not
refused. -/
theorem memoryPseudosComplete : Obligations.MemoryPseudosComplete := by
  intro base imm s hc ea eaw
  refine ⟨rfl, exec_ret_held, fun hp => answers_jumpedTo_of_exec (exec_ret hp), TableRow.prfd base imm,
    TableRow.mclr base imm, TableRow.mclrw base imm, fun hr => ?_⟩
  have hmclr := exec_mclr (imm := imm) hc hr
  have hmclrw := exec_mclrw (imm := imm) hc hr
  refine ⟨⟨_, exec_prfd imm hr, onlyAdvanced_advance s⟩, fun hi => ?mclr, fun ha => ?odd, fun ha h0 h1 => ?mclrw⟩
  case mclr =>
    rw [storeByte_outside hc _ hi] at hmclr
    exact answers_storeDone_of_exec hmclr (bytesStored_writeByte ea 0 s)
  case odd => rw [Refuses, hmclrw, storeWord_odd hc _ ha, afterStore]
  case mclrw =>
    rw [storeWord_even hc _ ha h0 h1] at hmclrw
    exact answers_storeDone_of_exec hmclrw (bytesStored_writeWord eaw 0 s)

/-- Settles O59: the eight numbers by the rule of their length and sign, the text character by character. -/
theorem directivesEmitLittleEndian : Obligations.DirectivesEmitLittleEndian := by
  refine ⟨fun v => ?unsigned, fun v => ?signed, fun size amt => ⟨rfl, ?reserve⟩, fun text sen => ⟨fun h => ?codes,
    fun h => ?none⟩⟩
  case unsigned =>
    exact ⟨emits_of_unsigned (n := 1) rfl, emits_of_unsigned (n := 2) rfl, emits_of_unsigned (n := 3) rfl,
      emits_of_unsigned (n := 4) rfl, emit_eq_none_of_unsigned (n := 1) rfl, emit_eq_none_of_unsigned (n := 2) rfl,
      emit_eq_none_of_unsigned (n := 3) rfl, emit_eq_none_of_unsigned (n := 4) rfl⟩
  case signed =>
    exact ⟨emits_of_signed (n := 1) (k := 7) rfl rfl, emits_of_signed (n := 2) (k := 15) rfl rfl,
      emits_of_signed (n := 3) (k := 23) rfl rfl, emits_of_signed (n := 4) (k := 31) rfl rfl,
      emit_eq_none_of_signed (n := 1) (k := 7) rfl rfl, emit_eq_none_of_signed (n := 2) (k := 15) rfl rfl,
      emit_eq_none_of_signed (n := 3) (k := 23) rfl rfl, emit_eq_none_of_signed (n := 4) (k := 31) rfl rfl⟩
  case reserve => rw [Directive.emit, Option.getD_none, Nat.mul_one]
  case codes => rw [emit_ascii, asciiBytes_of_codes h, Option.map_some]
  case none => rw [emit_ascii, asciiBytes_eq_none h, Option.map_none]

end Sys2Proof.Proofs
end

section
/-! PROOF. The entry of a trap (R283, R289 to R291): what it answers once its values are computed, the state it leaves,
and from these the whole rule of an entry for every cause. -/

namespace Sys2Proof.Machine

open Sys2Proof.Safety

variable {q : TrapSequence} {cause : Cause} {save handler rpAfter : Word} {rp : Option Word} {s u : State}

/-! The return address (R290). -/

/-- An interrupt resumes at the instruction not yet executed, whatever the platform says of the other causes. -/
theorem returnAddress_interrupt (q : TrapSequence) (a : Word) : q.returnAddress .interrupt a = a := by
  simp [TrapSequence.returnAddress]

theorem returnAddress_of_ne_interrupt (q : TrapSequence) (hcause : cause ≠ .interrupt) (a : Word) :
    q.returnAddress cause a = if q.skips then a + 2 else a := by
  simp [TrapSequence.returnAddress, hcause]

/-! What rp holds after an entry. -/

/-- rp holds the platform's value where it gives one, and otherwise stays as it is (R289). -/
def State.leaveRp (rp : Option Word) (s : State) : State := rp.elim id (State.setReg .rp) s

theorem State.leaveRp_frame (rp : Option Word) (s : State) : ∃ regs, s.leaveRp rp = { s with regs := regs } := by
  cases rp <;> exact ⟨_, rfl⟩

theorem State.reg_rp_leaveRp (rp : Option Word) (s : State) : (s.leaveRp rp).reg .rp = rp.getD (s.reg .rp) := by
  cases rp <;> rfl

theorem regsSameBut_leaveRp (rp : Option Word) (s : State) : RegsSameBut [.rp] s (s.leaveRp rp) := by
  intro r hr
  cases rp with
  | none => rfl
  | some v => exact (s.reg_setReg .rp r v).trans (if_neg fun h => hr (List.mem_singleton.mpr h.1))

/-! The completion of an entry (R289). -/

/-- What an entry that began in `s` records beside the further writes and the save of rp, which left `v`: the return
address, that no entry waits, the mask and the saved flags. -/
def TrapSequence.records (q : TrapSequence) (cause : Cause) (s v : State) : State :=
  { v with
    ira := q.returnAddress cause s.addr, entering := none, masked := q.masks || v.masked, draws := s.draws + 1,
    savedFlags := if q.savesFlags then s.flags else v.savedFlags }

/-- The state an entry that began in `s` ends in. -/
def TrapSequence.ends (q : TrapSequence) (cause : Cause) (handler : Word) (rp : Option Word) (s v : State) : State :=
  ((q.records cause s v).leaveRp rp).setIp handler

/-- The value a platform gives for rp, where it gives one. -/
theorem rpAfter_of_entryComputes (h : EntryComputes q cause save handler rpAfter u s) :
    ∃ rp, q.rpAfter.mapM (TrapExpr.value cause.info s) = .ok rp ∧ rpAfter = rp.getD (u.reg .rp) := by
  obtain ⟨-, -, -, -, hrp⟩ := h
  cases hq : q.rpAfter with
  | none =>
    rw [hq] at hrp
    exact ⟨none, rfl, hrp⟩
  | some e =>
    rw [hq] at hrp
    replace hrp : e.value cause.info s = .ok rpAfter := hrp
    exact ⟨some rpAfter, by rw [Option.mapM_some, hrp]; rfl, rfl⟩

/-- With its values computed an entry is the save of rp and what follows it: only the save can still refuse it. -/
theorem completeEntry_of_computes (h : EntryComputes q cause save handler rpAfter u s)
    (hrp : q.rpAfter.mapM (TrapExpr.value cause.info s) = .ok rp) :
    completeEntry q cause s = (storeWord save (s.regAtTrap .rp) u).map (q.ends cause handler rp s) := by
  obtain ⟨-, hsave, hhandler, hu, -⟩ := h
  simp only [completeEntry, bind, Except.bind, hsave, hhandler, hrp, hu]
  cases storeWord save (s.regAtTrap .rp) u with
  | error why => rfl
  | ok v => cases rp <;> rfl

/-- The further writes of an entry leave the loads in flight and the outside as they were. -/
theorem outsideSame_of_entryComputes (h : EntryComputes q cause save handler rpAfter u s) :
    u.inflight = s.inflight ∧ OutsideSame s u := by
  obtain ⟨-, -, -, hu, -⟩ := h
  obtain ⟨hloads, -, houtside⟩ := (applyWrites_ok hu).outsideSame
  simp only [OutsideSame, penAfterEntry_params, penAfterEntry_platform, penAfterEntry_image, penAfterEntry_code,
    penAfterEntry_inputs, penAfterEntry_clock] at houtside
  exact ⟨hloads.trans (penAfterEntry_inflight s cause), houtside⟩

theorem atSpecChoice_of_outsideSame (hc : AtSpecChoice s) (h : OutsideSame s u) : AtSpecChoice u := by
  obtain ⟨hparams, hplatform, -⟩ := h
  exact ⟨hparams.trans hc.1, by rw [hplatform, hc.2]⟩

theorem inImage_of_outsideSame (h : OutsideSame s u) (a : Word) : u.inImage a = s.inImage a := by
  obtain ⟨-, -, himage, -⟩ := h
  rw [State.inImage, State.inImage, himage]

/-- A completed entry leaves what the further writes left, but for the saved rp, ira, ip, rp, the mask and the saved
flags. -/
theorem trapEntered_ends (hloads : u.inflight = s.inflight) (houtside : OutsideSame s u) :
    TrapEntered q save handler (rp.getD (u.reg .rp)) (q.returnAddress cause s.addr) u s
      (q.ends cause handler rp s (u.writeWord save (s.regAtTrap .rp))) := by
  have hsaved := u.readWord_writeWord save (s.regAtTrap .rp)
  obtain ⟨-, hmem, -⟩ := bytesStored_writeWord save (s.regAtTrap .rp) u
  have hrp := State.reg_rp_leaveRp rp (q.records cause s (u.writeWord save (s.regAtTrap .rp)))
  have hregs := regsSameBut_leaveRp rp (q.records cause s (u.writeWord save (s.regAtTrap .rp)))
  obtain ⟨regs, hframe⟩ := State.leaveRp_frame rp (q.records cause s (u.writeWord save (s.regAtTrap .rp)))
  rw [hframe] at hrp hregs
  rw [TrapSequence.ends, hframe]
  exact ⟨fun hp => hsaved.trans (s.regAtTrap_ready hp), hmem, rfl, State.addr_setIp .., hrp, hregs,
    fun r _ => State.awaited_congr hloads r, rfl, rfl, rfl, rfl, rfl, fun _ => rfl, ⟨rfl, rfl⟩, houtside⟩

/-! The whole rule of an entry. -/

/-- A trap with a TRAP_ENTRY, for every cause (R283, R289, R291): it waits, or its values are computed and the save of
rp decides, by the same rules as any word store (R57, R64). -/
theorem entryRule_takeTrap {e : TrapEntry} (hc : AtSpecChoice s) (he : s.platform.trapEntry = some e) (cause : Cause) :
    EntryRule (e.sequence cause) cause ((e.sequence cause).returnAddress cause s.addr) s (takeTrap cause s) := by
  rw [takeTrap_entry cause he]
  refine ⟨fun ⟨r, hr, hp⟩ => enterTrap_waits hr hp, fun save handler rpAfter u h => ?_⟩
  have ⟨hready, _⟩ := h
  obtain ⟨hloads, houtside⟩ := outsideSame_of_entryComputes h
  have hcu := atSpecChoice_of_outsideSame hc houtside
  obtain ⟨rp, hrp, rfl⟩ := rpAfter_of_entryComputes h
  rw [enterTrap_ready hready, completeEntry_of_computes h hrp, ← inImage_of_outsideSame houtside save,
    ← inImage_of_outsideSame houtside (save + 1)]
  refine ⟨fun hodd => ?odd, fun heven himage => ?image, fun heven himage => ?done⟩
  case odd => rw [storeWord_odd hcu _ hodd]; rfl
  case image => rw [storeWord_image hcu _ heven himage]; rfl
  case done =>
    obtain ⟨hlow, hhigh⟩ := Bool.or_eq_false_iff.mp himage
    rw [storeWord_even hcu _ heven hlow hhigh]
    exact ⟨_, rfl, trapEntered_ends hloads houtside⟩

/-- The rule for a cause other than an interrupt: the platform says whether ira is the instruction or the next one
(R290). -/
theorem entryRule_of_ne_interrupt {e : TrapEntry} (hc : AtSpecChoice s) (he : s.platform.trapEntry = some e)
    (hcause : cause ≠ .interrupt) :
    EntryRule (e.sequence cause) cause (if (e.sequence cause).skips then s.addr + 2 else s.addr) s
      (takeTrap cause s) :=
  returnAddress_of_ne_interrupt (e.sequence cause) hcause s.addr ▸ entryRule_takeTrap hc he cause

/-! The taking of an interrupt (R286). -/

section
variable (hsource : s.platform.interruptSource = true) (htake : s.inputs.head? = some .take)
include hsource htake

/-- An interrupt source makes events possible, and the next one is the taking of an interrupt: it is taken where one is
pending, not masked, and no entry waits. -/
theorem step_take : step s =
    if s.pen && !s.masked && s.entering.isNone then takeTrap .interrupt s.tick else proceed s.tick := by
  have hq : s.quiet = false := Bool.eq_false_iff.mpr fun h => by simp [(State.quiet_iff.mp h).2] at hsource
  simp [step, hq, State.nextEvent_of_head? htake, hsource]

theorem step_take_taken (hpen : s.pen = true) (hmasked : s.masked = false) (hentering : s.entering = none) :
    step s = takeTrap .interrupt s.tick := by
  simp [step_take hsource htake, hpen, hmasked, hentering]

theorem step_take_not_taken (h : s.masked = true ∨ s.entering ≠ none) : step s = proceed s.tick := by
  rw [step_take hsource htake, if_neg]
  rcases h with hmasked | hentering
  · simp [hmasked]
  · simp [hentering]

end

end Sys2Proof.Machine
end

section
/-! PROOF. The obligations of 60_exceptions.md. -/

namespace Sys2Proof.Proofs

open Sys2Proof.Machine Sys2Proof.Safety

/-- Settles O29: both instructions take the trap of their cause, and without a TRAP_ENTRY every trap ends the run. -/
theorem trapsEndTheRunWithoutATrapEntry : Obligations.TrapsEndTheRunWithoutATrapEntry := fun x cause _ he =>
  ⟨takeTrap_absent .breakpoint he, takeTrap_absent (.systemCall x) he, takeTrap_absent cause he⟩

/-- Settles O30: both instructions take the trap of their cause, which goes by the rule of an entry. -/
theorem breakpointAndSystemCallEnterTheTrap : Obligations.BreakpointAndSystemCallEnterTheTrap := by
  intro e x s hc he
  refine ⟨?breakpoint, ?systemCall, ?info⟩
  case breakpoint => exact entryRule_of_ne_interrupt (cause := .breakpoint) hc he (by decide)
  case systemCall => exact entryRule_of_ne_interrupt (cause := .systemCall x) hc he (by simp)
  case info => rw [TrapExpr.value, Cause.info, ← zext8_eq_ofNat]; rfl

/-- Settles O31: the instruction raises the fault (R28), and its trap goes by the rule of an entry. -/
theorem pendingWriteFaultEntersTheTrap : Obligations.PendingWriteFaultEntersTheTrap := by
  intro e i rd s hc he hd hr hp hszr hcsr
  have hroles : s.params.szrRoles = .firstIsValue := by rw [hc.1]; rfl
  obtain ⟨hraises, -⟩ := pendingDestinationRaisesTheFault i rd s hd hr hp (fun d a b hi => ⟨hroles, hszr d a b hi⟩) hcsr
  rw [hraises]
  exact entryRule_of_ne_interrupt (cause := .pendingWrite rd) hc he (by simp)

/-- Settles O32: the event takes the trap of the interrupt in the ticked state, whose address is that of the instruction
not yet executed, or gives way. -/
theorem interruptIsTakenBetweenInstructions : Obligations.InterruptIsTakenBetweenInstructions := by
  intro e s hc he hsource hpen htake
  refine ⟨fun hmasked hentering => ?taken, step_take_not_taken hsource htake⟩
  case taken =>
    have hrule := entryRule_takeTrap (s := s.tick) hc he .interrupt
    rw [returnAddress_interrupt, State.addr_tick] at hrule
    rw [step_take_taken hsource htake hpen hmasked hentering]
    exact hrule

end Sys2Proof.Proofs
end
